-- ==== Sys2Proof/Word.lean ====
section
/-! DEFINITION. The word types of the dispatcher block and its two id spaces. -/

namespace Sys2Proof

/-- A 32-bit word: command words, registers of the register space and bus data (R6, R25). -/
abbrev Word := BitVec 32

/-- One byte of the SRAM arena (R42). -/
abbrev Byte := BitVec 8

/-- A virtual-register id, 0 to 31 (R4, R16). -/
abbrev RegId := Fin 32

/-- A length-slot id, 0 to 7 (R4, R5). -/
abbrev SlotId := Fin 8

end Sys2Proof
end

