-- ==== Sys2Proof/Config.lean ====
section
/-! DEFINITION. What an implementation fixes (`Params`, R7) and the values the spec leaves open,
each an opaque constant without a body: nothing can be proved of the value of one. -/

namespace Sys2Proof.Config

/-- WAIT_POLICY of R7: busy-poll, or block on an event. -/
inductive WaitPolicy where
  | poll
  | event
  deriving DecidableEq, Repr

/-- The open parameters of R7 that are plain data. They stand in `State.cfg` and no step changes
them, so a statement about every state holds for every choice (log entry 3). -/
structure Params where
  fifoDepth : Nat
  fifoWm    : Nat
  policy    : WaitPolicy
  aluBase   : Word
  sramBase  : Word
  sramSize  : Nat
  deriving DecidableEq, Repr

/-- The ranges of R7 and R48: depth 1 to 255, watermark 1 to depth, the alignments, both windows
inside the 32-bit bus, and no overlap of the two (log entry 27). -/
abbrev Params.legal (p : Params) : Prop :=
  1 ≤ p.fifoDepth ∧ p.fifoDepth ≤ 255 ∧ 1 ≤ p.fifoWm ∧ p.fifoWm ≤ p.fifoDepth ∧
  p.aluBase.toNat % 0x200 = 0 ∧ p.sramBase.toNat % 8 = 0 ∧ p.sramSize % 8 = 0 ∧
  p.aluBase.toNat + 0x200 ≤ 2 ^ 32 ∧ p.sramBase.toNat + p.sramSize ≤ 2 ^ 32 ∧
  (p.aluBase.toNat + 0x200 ≤ p.sramBase.toNat ∨
    p.sramBase.toNat + p.sramSize ≤ p.aluBase.toNat)

/-- The example configuration of 95_test_vectors.md section 2, with the POLL policy and two bases
of the model's own (DESIGN CHOICE, unsafe, log entry 3). -/
def Params.example : Params where
  fifoDepth := 4
  fifoWm    := 2
  policy    := .poll
  aluBase   := 0#32
  sramBase  := 0x1000#32
  sramSize  := 0x400

/-- The arguments of `AluDatapath.exec` (R120): opcode id, operand width W, full length Lb,
operands A and B, the REQ bit, and the implicitly read registers with their values. -/
structure AluArgs where
  opc : BitVec 5
  w   : Nat
  lb  : Nat
  a   : Nat
  b   : Nat
  req : Bool
  ctx : List (RegId × Nat)
  deriving DecidableEq, Repr

/-- AluDatapath's result where the source is silent (R120, R127 to R135): a function of the
arguments alone. -/
opaque aluResult : AluArgs → Nat

/-- AluDatapath's carry where the source is silent (R120, R127 to R135). -/
opaque aluCarry : AluArgs → Bool

/-- AluDatapath's zero flag where the source is silent (R120, R127 to R135, U11; log entry 9). -/
opaque aluZero : AluArgs → Bool

/-- Whether a MODMUL or MODEXP raises MULRED (R133, R134, U12). -/
opaque aluMulRed : AluArgs → Bool

/-- SramStore's answer before its contract is applied (R46, U14): the number of the draw, the live
regions and the size give an offset, or none. -/
opaque allocChoice : Nat → List (Nat × Nat) → Nat → Option Nat

/-- A value the spec calls "any value", one for each draw (R122, R140). -/
opaque freeNat : Nat → Nat

/-- A bit the spec calls "any value", one for each draw (R140). -/
opaque freeBit : Nat → Bool

end Sys2Proof.Config
end

