-- ==== Sys2Proof/Syntax.lean ====
section
/-! DEFINITION. The instructions: one constructor of `Instr` for each row of spec/opcode_table.json. -/

namespace Sys2Proof

/-- The twelve assigned opcodes of a command word (R61). -/
inductive Opcode where
  | add | sub | cmp | shift | logic | div | reduce | modadd | modsub | modmul | modexp | modinv
  deriving DecidableEq, Repr

/-- The fields of a command word beside its opcode (R57). -/
structure Cmd where
  len     : SlotId
  opA     : RegId
  bImm    : Bool
  opB     : Fin 32
  res     : RegId
  discard : Bool
  irq     : Bool
  req     : Bool
  deriving DecidableEq, Repr

/-- A HOST operation as a bus access in the two forms of R69: a BUS13 pattern (bit 12 is 1 for a
write, bits 11:0 the register offset) or an SRAM33 pattern (bit 32 is 1 for a write, bits 31:0 the
arena offset), each with the data word of a write. -/
inductive HostOp where
  | bus (pattern : BitVec 13) (data : Word)
  | sram (pattern : BitVec 33) (data : Word)
  deriving DecidableEq, Repr

/-- The instructions of spec/opcode_table.json. The commands are executed by ENGINE.RETIRE; every
other row is an operation of the HOST. -/
inductive Instr where
  | add (c : Cmd)
  | sub (c : Cmd)
  | cmp (c : Cmd)
  | shift (c : Cmd)
  | logic (c : Cmd)
  | div (c : Cmd)
  | reduce (c : Cmd)
  | modadd (c : Cmd)
  | modsub (c : Cmd)
  | modmul (c : Cmd)
  | modexp (c : Cmd)
  | modinv (c : Cmd)
  /-- The opcode field 0x1F of a LEN_REQ data word, with the requested width (R136). -/
  | longdiv (width : BitVec 20)
  | push (w : Word)
  | rdStatus
  | rdIntStat
  | wrIntStat (v : BitVec 6)
  | rdIntMask
  | wrIntMask (v : BitVec 6)
  | rdFaultLog
  | rdTopPend
  /-- A LEN_REQ with the opcode id and the requested width of its data word (R70, R96). -/
  | lenReq (opc : BitVec 5) (width : BitVec 20)
  | rdLenRsp
  | lenReset
  | regAlloc (slot : SlotId)
  | regBind (id : RegId) (slot : SlotId)
  | regFree (id : RegId)
  | rdRegRsp
  | waitRoom
  | waitIdle
  | submit (w : Word)
  | rdLenBits (slot : SlotId)
  | rdLenFull (slot : SlotId)
  | rdRegAddr (id : RegId)
  | rdRegSize (id : RegId)
  | sramRd32 (offset : Word)
  | sramWr32 (offset : Word) (v : Word)
  deriving DecidableEq, Repr

end Sys2Proof
end

