-- ==== Sys2Proof/WellFormed.lean ====
section
/-! DEFINITION. Which instructions are well formed. -/

namespace Sys2Proof

/-- An arena access names an offset that is a multiple of 4 (R43, R44, R69), and a LEN_REQ whose
opcode field is 0x1F is written as LONGDIV, the row that stands for it (R136, log entry 18). Every
other field is in range by its type. -/
def Instr.wf : Instr → Bool
  | .sramRd32 a   => a.toNat % 4 == 0
  | .sramWr32 a _ => a.toNat % 4 == 0
  | .lenReq opc _ => opc != 0x1F#5
  | .add _ | .sub _ | .cmp _ | .shift _ | .logic _ | .div _ | .reduce _ | .modadd _ | .modsub _
  | .modmul _ | .modexp _ | .modinv _ | .longdiv _ | .push _ | .rdStatus | .rdIntStat
  | .wrIntStat _ | .rdIntMask | .wrIntMask _ | .rdFaultLog | .rdTopPend | .rdLenRsp | .lenReset
  | .regAlloc _ | .regBind _ _ | .regFree _ | .rdRegRsp | .waitRoom | .waitIdle | .submit _
  | .rdLenBits _ | .rdLenFull _ | .rdRegAddr _ | .rdRegSize _ => true

end Sys2Proof
end

