-- ==== Sys2Proof/Decode.lean ====
section
/-! DEFINITION. The decoder, total and rejecting by name, and after it the encoder, both written from
the tables of R57, R61, R69 and R70. -/

namespace Sys2Proof

/-- Where an instruction's words come from: the command FIFO, or the HOST's bus. -/
inductive Words where
  | command (w : Word)
  | host (op : HostOp)
  deriving DecidableEq, Repr

/-- Why words are no instruction. -/
inductive DecodeError where
  /-- A command word whose OPC is 0x00 or 0x0D to 0x1F (R63). -/
  | unassignedOpcode
  /-- A read of a write-only register or of an unmapped offset, which returns 0 (R90). -/
  | readsAsZero
  /-- A write to a read-only register or to an unmapped offset, which is ignored (R90). -/
  | writeIgnored
  /-- A register offset that is not a multiple of 4 (R40). -/
  | misalignedOffset
  /-- A register offset of 0x200 or more, outside the register space (R39). -/
  | outsideRegisterSpace
  /-- An arena offset that is not a multiple of 4 (R43). -/
  | misalignedArenaOffset
  deriving DecidableEq, Repr

/-- The fields of a command word (R59). -/
def Cmd.ofWord (w : Word) : Cmd where
  len     := (w.extractLsb' 24 3).toFin
  opA     := (w.extractLsb' 19 5).toFin
  bImm    := w.getLsbD 18
  opB     := (w.extractLsb' 13 5).toFin
  res     := (w.extractLsb' 8 5).toFin
  discard := w.getLsbD 7
  irq     := w.getLsbD 6
  req     := w.getLsbD 5

/-- Bits 31:27 of a word: the opcode id of a command word and of a LEN_REQ data word (R57, R70). -/
def opcField (w : Word) : BitVec 5 := w.extractLsb' 27 5

/-- A command word's instruction, none where OPC is unassigned (R61, R63). Bits 4:0 are ignored
(R64). -/
def decodeCommand (w : Word) : Option Instr :=
  let c := Cmd.ofWord w
  match (opcField w).toNat with
  | 0x01 => some (.add c)
  | 0x02 => some (.sub c)
  | 0x03 => some (.cmp c)
  | 0x04 => some (.shift c)
  | 0x05 => some (.logic c)
  | 0x06 => some (.div c)
  | 0x07 => some (.reduce c)
  | 0x08 => some (.modadd c)
  | 0x09 => some (.modsub c)
  | 0x0A => some (.modmul c)
  | 0x0B => some (.modexp c)
  | 0x0C => some (.modinv c)
  | _    => none

/-- The data word of a LEN_REQ (R70): bits 31:27 the opcode id, bits 19:0 the width; the id 0x1F is
the row LONGDIV (R136). -/
def decodeLenReq (d : Word) : Instr :=
  if opcField d = 0x1F#5 then .longdiv (d.extractLsb' 0 20)
  else .lenReq (opcField d) (d.extractLsb' 0 20)

/-- A write at a register offset (R25, R69, R70). -/
def decodeWrite (off : Nat) (d : Word) : Except DecodeError Instr :=
  match off with
  | 0x000 => .ok (.push d)
  | 0x008 => .ok (.wrIntStat (d.extractLsb' 0 6))
  | 0x00C => .ok (.wrIntMask (d.extractLsb' 0 6))
  | 0x018 => .ok (decodeLenReq d)
  | 0x020 => .ok .lenReset
  | 0x024 => .ok (.regAlloc (d.extractLsb' 0 3).toFin)
  | 0x028 => .ok (.regBind (d.extractLsb' 8 5).toFin (d.extractLsb' 0 3).toFin)
  | 0x02C => .ok (.regFree (d.extractLsb' 0 5).toFin)
  | 0x03C => .ok (.submit d)
  | _     => .error .writeIgnored

/-- A read at a register offset (R25, R69); the table views carry their index in the offset. -/
def decodeRead (off : Nat) : Except DecodeError Instr :=
  match off with
  | 0x004 => .ok .rdStatus
  | 0x008 => .ok .rdIntStat
  | 0x00C => .ok .rdIntMask
  | 0x010 => .ok .rdFaultLog
  | 0x014 => .ok .rdTopPend
  | 0x01C => .ok .rdLenRsp
  | 0x030 => .ok .rdRegRsp
  | 0x034 => .ok .waitRoom
  | 0x038 => .ok .waitIdle
  | _     =>
    if 0x040 ≤ off ∧ off < 0x060 then .ok (.rdLenBits (Fin.ofNat 8 ((off - 0x040) / 4)))
    else if 0x060 ≤ off ∧ off < 0x080 then .ok (.rdLenFull (Fin.ofNat 8 ((off - 0x060) / 4)))
    else if 0x080 ≤ off ∧ off < 0x100 then .ok (.rdRegAddr (Fin.ofNat 32 ((off - 0x080) / 4)))
    else if 0x100 ≤ off ∧ off < 0x180 then .ok (.rdRegSize (Fin.ofNat 32 ((off - 0x100) / 4)))
    else .error .readsAsZero

/-- A HOST operation's instruction (R69); misaligned offsets, offsets outside the register space and
accesses no register answers are rejected by name (R40, R43, R90). -/
def decodeHost : HostOp → Except DecodeError Instr
  | .bus p d =>
    let off := (p.extractLsb' 0 12).toNat
    if off % 4 ≠ 0 then .error .misalignedOffset
    else if 0x200 ≤ off then .error .outsideRegisterSpace
    else if p.getLsbD 12 then decodeWrite off d
    else decodeRead off
  | .sram p d =>
    let a := p.extractLsb' 0 32
    if a.toNat % 4 ≠ 0 then .error .misalignedArenaOffset
    else if p.getLsbD 32 then .ok (.sramWr32 a d)
    else .ok (.sramRd32 a)

/-- The decoder. -/
def decode : Words → Except DecodeError Instr
  | .command w =>
    match decodeCommand w with
    | some i => .ok i
    | none   => .error .unassignedOpcode
  | .host op => decodeHost op

/-! ## The encoder -/

/-- Assembling a command word from its opcode id and fields, most significant first (R57, R58). -/
def Cmd.assemble (opc : BitVec 5) (c : Cmd) : Word :=
  opc ++ (BitVec.ofFin c.len : BitVec 3) ++ (BitVec.ofFin c.opA : BitVec 5) ++
    BitVec.ofBool c.bImm ++ (BitVec.ofFin c.opB : BitVec 5) ++ (BitVec.ofFin c.res : BitVec 5) ++
    BitVec.ofBool c.discard ++ BitVec.ofBool c.irq ++ BitVec.ofBool c.req ++ 0#5

/-- The opcode id of each assigned opcode (R61). -/
def Opcode.id : Opcode → BitVec 5
  | .add    => 0x01#5
  | .sub    => 0x02#5
  | .cmp    => 0x03#5
  | .shift  => 0x04#5
  | .logic  => 0x05#5
  | .div    => 0x06#5
  | .reduce => 0x07#5
  | .modadd => 0x08#5
  | .modsub => 0x09#5
  | .modmul => 0x0A#5
  | .modexp => 0x0B#5
  | .modinv => 0x0C#5

/-- A read of the register at an offset. -/
def busRead (off : Nat) : Words := .host (.bus (0#1 ++ BitVec.ofNat 12 off) 0#32)

/-- A write of a data word to the register at an offset. -/
def busWrite (off : Nat) (d : Word) : Words := .host (.bus (1#1 ++ BitVec.ofNat 12 off) d)

/-- The data word of a LEN_REQ (R70). -/
def lenReqData (opc : BitVec 5) (width : BitVec 20) : Word := opc ++ 0#7 ++ width

/-- The words of an instruction (R58, R69, R70); ignored bits are written 0. -/
def encode : Instr → Words
  | .add c        => .command (c.assemble (Opcode.id .add))
  | .sub c        => .command (c.assemble (Opcode.id .sub))
  | .cmp c        => .command (c.assemble (Opcode.id .cmp))
  | .shift c      => .command (c.assemble (Opcode.id .shift))
  | .logic c      => .command (c.assemble (Opcode.id .logic))
  | .div c        => .command (c.assemble (Opcode.id .div))
  | .reduce c     => .command (c.assemble (Opcode.id .reduce))
  | .modadd c     => .command (c.assemble (Opcode.id .modadd))
  | .modsub c     => .command (c.assemble (Opcode.id .modsub))
  | .modmul c     => .command (c.assemble (Opcode.id .modmul))
  | .modexp c     => .command (c.assemble (Opcode.id .modexp))
  | .modinv c     => .command (c.assemble (Opcode.id .modinv))
  | .longdiv w    => busWrite 0x018 (lenReqData 0x1F#5 w)
  | .push w       => busWrite 0x000 w
  | .rdStatus     => busRead 0x004
  | .rdIntStat    => busRead 0x008
  | .wrIntStat v  => busWrite 0x008 (0#26 ++ v)
  | .rdIntMask    => busRead 0x00C
  | .wrIntMask v  => busWrite 0x00C (0#26 ++ v)
  | .rdFaultLog   => busRead 0x010
  | .rdTopPend    => busRead 0x014
  | .lenReq o w   => busWrite 0x018 (lenReqData o w)
  | .rdLenRsp     => busRead 0x01C
  | .lenReset     => busWrite 0x020 0#32
  | .regAlloc s   => busWrite 0x024 (0#29 ++ (BitVec.ofFin s : BitVec 3))
  | .regBind i s  => busWrite 0x028
      (0#19 ++ (BitVec.ofFin i : BitVec 5) ++ 0#5 ++ (BitVec.ofFin s : BitVec 3))
  | .regFree i    => busWrite 0x02C (0#27 ++ (BitVec.ofFin i : BitVec 5))
  | .rdRegRsp     => busRead 0x030
  | .waitRoom     => busRead 0x034
  | .waitIdle     => busRead 0x038
  | .submit w     => busWrite 0x03C w
  | .rdLenBits s  => busRead (0x040 + 4 * s.val)
  | .rdLenFull s  => busRead (0x060 + 4 * s.val)
  | .rdRegAddr i  => busRead (0x080 + 4 * i.val)
  | .rdRegSize i  => busRead (0x100 + 4 * i.val)
  | .sramRd32 a   => .host (.sram (0#1 ++ a) 0#32)
  | .sramWr32 a v => .host (.sram (1#1 ++ a) v)

/-! ## The opcode table's own numbering -/

/-- The words of a row of spec/opcode_table.json whose first `nbits` bits are `w` and whose further
bits (the data word of a write) are 0. A 32-bit row is a command word, or with OPC 0x1F the data word
of a LEN_REQ (R136); a row of 13 bits stands in two bytes, one of 33 bits in five. -/
def tableWords (nbits w : Nat) : Option Words :=
  if nbits = 32 then
    let d := BitVec.ofNat 32 w
    if opcField d = 0x1F#5 then some (busWrite 0x018 d) else some (.command d)
  else if nbits = 13 ∨ nbits = 16 then
    if w < 2 ^ 13 then some (.host (.bus (BitVec.ofNat 13 w) 0#32)) else none
  else if nbits = 33 ∨ nbits = 40 then
    if w < 2 ^ 33 then some (.host (.sram (BitVec.ofNat 33 w) 0#32)) else none
  else none

/-- The instruction the decoder reads from a row's bits, none where it refuses them. -/
def decodeTableWord (nbits w : Nat) : Option Instr :=
  match tableWords nbits w with
  | none    => none
  | some ws =>
    match decode ws with
    | .ok i    => some i
    | .error _ => none

end Sys2Proof
end

