-- ==== Sys2Proof/Machine/State.lean ====
section
/-! DEFINITION. The state of the block (R15), as plain data, and the state after RESET (R164). -/

namespace Sys2Proof.Machine

open Sys2Proof.Config

/-- The arena as (offset, byte) pairs: offsets strictly rising, no entry equal to `blank`. -/
abbrev Memory := List Host.Cell

/-- What an unlisted arena byte reads as. R165 gives an arena byte no value after reset: this is a
DESIGN CHOICE (unsafe for the one state `State.reset`; `State.resetWith` takes any arena; log entry
4). -/
def Memory.blank : Byte := 0#8

/-- The canonical form of `Memory`. -/
abbrev Memory.wf (m : Memory) : Prop :=
  m.Pairwise (fun x y => x.1 < y.1) ∧ ∀ c ∈ m, c.2 ≠ Memory.blank

/-- A length slot (R20). -/
structure LenEntry where
  occ  : Bool
  bits : BitVec 22
  full : BitVec 22
  deriving DecidableEq, Repr

/-- A virtual register's table entry (R22). -/
structure RegEntry where
  occ  : Bool
  addr : Word
  size : Word
  deriving DecidableEq, Repr

/-- The six interrupt causes, in the order of their codes 0 to 5 (R141). -/
inductive Cause where
  | fifoWm
  | done
  | fifoOvf
  | div0
  | noInv
  | mulRed
  deriving DecidableEq, Repr

/-- The demultiplexer's control state (R35). -/
inductive Demux where
  | idle
  | masked (c : Cause)
  | released (c : Cause)
  deriving DecidableEq, Repr

/-- The HOST's position inside a blocking wait (R36). -/
inductive HWait where
  | none
  | roomCheck
  | roomArmed
  | idleCheck
  | idleArmed
  deriving DecidableEq, Repr

/-- A bus access of the HOST: one of the coded forms of R69, or an access by bus address and width
that the two base addresses still have to route (R39 to R41, R43; log entry 17). -/
inductive HostAccess where
  | coded (op : HostOp)
  | mmio (write : Bool) (bytes : Nat) (addr : Word) (data : Word)
  deriving DecidableEq, Repr

/-- Which agent a turn belongs to; a DEMUX turn may name the cause DEMUX_ORDER picks (R149). -/
inductive Act where
  | host
  | engine
  | demux (pick : Option Cause)
  | sibling
  deriving DecidableEq, Repr

/-- A turn: an agent, and the free input sib_pend at that step (R10, R38). -/
structure Turn where
  act : Act
  sib : BitVec 2
  deriving DecidableEq, Repr

/-- The state. The fields down to `live` are R15's list; the others are the model's own (log entries
1, 2, 3, 6, 7, 13 and 21). -/
structure State where
  fifo     : List Word
  busy     : Bool
  cur      : Word
  lenTab   : Vector LenEntry 8
  regTab   : Vector RegEntry 32
  carry    : Bool
  zero     : Bool
  intStat  : BitVec 6
  intMask  : BitVec 6
  faultLog : BitVec 6
  lenRsp   : Word
  regRsp   : Word
  sigFifo  : Bool
  sigDone  : Bool
  demux    : Demux
  hwait    : HWait
  mem      : Memory
  live     : List (Nat × Nat)
  cfg      : Params
  held     : Option Word
  readData : Word
  program  : List HostAccess
  sched    : List Turn
  sibPend  : BitVec 2
  draws    : Nat
  deriving DecidableEq, Repr

/-- Why the machine stops. The first five are the model faults of R11; a step that raises one has no
other effect (R154). -/
inductive Fault where
  /-- A command retires naming a slot that is not occupied (R121, U2). Raised by the twelve command
  meanings. Safe. -/
  | unconfiguredSlot
  /-- A command retires naming a register that is not occupied (R49, R121, U3). Raised by the twelve
  command meanings. Safe. -/
  | unboundRegister
  /-- A command retires naming a register smaller than the slot's full length (R49, R121, U4).
  Raised by the twelve command meanings. Safe. -/
  | registerTooSmall
  /-- An arena access or zero-fill while the block is not idle (R45, R116, U5). Raised by SRAM_RD32,
  SRAM_WR32, REG_ALLOC, REG_BIND and REG_FREE. Safe. -/
  | sramAccessWhileBusy
  /-- A LEN_RESET while the block is not idle (R102, U6). Raised by LEN_RESET. Safe. -/
  | slotResetWhileBusy
  /-- No turn is scheduled, no agent is enabled and the run has not ended (R180, U1, U23, U27).
  Raised by the step alone. Safe. -/
  | stuck
  deriving DecidableEq, Repr

/-- Why a step has no meaning. -/
inductive Refusal where
  /-- The instruction has no meaning yet. Raised by arms of `exec`; no arm raises it now. Safe. -/
  | notModelled (mnemonic : String)
  /-- A bus access whose offset is not a multiple of 4 (R40, R43, U19). Raised by the HOST's bus
  access, SRAM_RD32 and SRAM_WR32. Safe. -/
  | misalignedAccess
  /-- A bus access of another width than 32 bits (R40, R43, U19). Raised by the HOST's bus access.
  Safe. -/
  | badAccessWidth
  /-- A register access at an offset of 0x200 or more (R39). Raised by the HOST's bus access. Safe. -/
  | outsideRegisterSpace
  /-- An arena access that does not lie inside the arena (R44, U19). Raised by SRAM_RD32 and
  SRAM_WR32. Safe. -/
  | outsideArena
  /-- A bus address in neither window of the block (R39, R48). Raised by the HOST's bus access.
  Safe. -/
  | noDevice
  /-- A command word among the HOST's bus accesses: the bus has no such form (R69). Raised by the
  HOST's bus access; the decoder never leads there. Safe. -/
  | notABusAccess
  /-- The run has ended: the HOST has no operation left and the block is idle (R180). Raised by the
  step alone. Safe. -/
  | runEnded
  deriving DecidableEq, Repr

/-- An instruction's outcome. -/
abbrev Result := Host.Outcome State Fault Refusal

/-- The state after RESET (R164) for a configuration and arena contents: R165 leaves every arena byte
unspecified, so the arena is an argument. -/
def State.resetWith (p : Params) (arena : Memory) : State where
  fifo     := []
  busy     := false
  cur      := 0#32
  lenTab   := Vector.replicate 8 ⟨false, 0#22, 0#22⟩
  regTab   := Vector.replicate 32 ⟨false, 0#32, 0#32⟩
  carry    := false
  zero     := false
  intStat  := 0#6
  intMask  := 0x3F#6
  faultLog := 0#6
  lenRsp   := 0#32
  regRsp   := 0#32
  sigFifo  := false
  sigDone  := false
  demux    := .idle
  hwait    := .none
  mem      := arena
  live     := []
  cfg      := p
  held     := none
  readData := 0#32
  program  := []
  sched    := []
  sibPend  := 0#2
  draws    := 0

/-- The machine right after RESET, in the example configuration and with nothing listed in the arena
(DESIGN CHOICE both, unsafe, log entries 3 and 4). -/
def State.reset : State := State.resetWith Params.example []

end Sys2Proof.Machine
end

