-- ==== Sys2Proof/Machine/Ops.lean ====
section
/-! DEFINITION. The named operations over the state: the arena, the tables, the FIFO, raising a fault
event, the demultiplexer's service of a cause, and the arena allocator. -/

namespace Sys2Proof.Machine

open Sys2Proof.Config

/-! ## The arena (R42) -/

/-- One arena byte. -/
def Memory.readByte : Memory → Nat → Byte
  | [], _ => Memory.blank
  | (k, v) :: rest, a => if k = a then v else Memory.readByte rest a

/-- Storing one arena byte, in canonical form. -/
def Memory.writeByte : Memory → Nat → Byte → Memory
  | [], a, v => if v = Memory.blank then [] else [(a, v)]
  | (k, x) :: rest, a, v =>
    if a < k then (if v = Memory.blank then (k, x) :: rest else (a, v) :: (k, x) :: rest)
    else if a = k then (if v = Memory.blank then rest else (a, v) :: rest)
    else (k, x) :: Memory.writeByte rest a v

/-- `MemRead(a, n)`: n bytes from offset a as a little-endian natural (R42). -/
def Memory.read (m : Memory) (a : Nat) : Nat → Nat
  | 0     => 0
  | n + 1 => (m.readByte a).toNat + 256 * Memory.read m (a + 1) n

/-- `MemWrite(a, n, v)`: the low 8n bits of v, least significant byte first (R42). -/
def Memory.write (m : Memory) (a : Nat) : Nat → Nat → Memory
  | 0, _     => m
  | n + 1, v => Memory.write (m.writeByte a (BitVec.ofNat 8 v)) (a + 1) n (v / 256)

/-! ## The tables (R20, R22) -/

/-- `L[s]`. -/
def State.slot (s : State) (i : SlotId) : LenEntry := s.lenTab.get i

/-- `R[i]`. -/
def State.reg (s : State) (i : RegId) : RegEntry := s.regTab.get i

/-- `L[s] <- e`. -/
def State.setSlot (s : State) (i : SlotId) (e : LenEntry) : State :=
  { s with lenTab := s.lenTab.set i.val e i.isLt }

/-- `R[i] <- e`. -/
def State.setReg (s : State) (i : RegId) (e : RegEntry) : State :=
  { s with regTab := s.regTab.set i.val e i.isLt }

/-! ## The FIFO and idleness (R18, R19) -/

/-- `count`. -/
def State.count (s : State) : Nat := s.fifo.length

/-- The FIFO has room: `count < FIFO_DEPTH`. -/
def State.room (s : State) : Bool := decide (s.count < s.cfg.fifoDepth)

/-- Idle: "the FIFO is empty and the ALU is not busy". -/
def State.isIdle (s : State) : Bool := decide (s.count = 0) && !s.busy

/-- A command word as an entry of `fifo`: bits 4:0 are stored as 0 (R64). -/
def fifoEntry (w : Word) : Word := w &&& 0xFFFFFFE0#32

/-! ## Causes, latches and raising a fault event (R141 to R145) -/

/-- The code of a cause, its bit position in INT_STAT, INT_MASK and FAULT_LOG (R141). -/
def Cause.code : Cause → Nat
  | .fifoWm  => 0
  | .done    => 1
  | .fifoOvf => 2
  | .div0    => 3
  | .noInv   => 4
  | .mulRed  => 5

/-- The one-bit mask of a cause. -/
def Cause.bit (c : Cause) : BitVec 6 := BitVec.twoPow 6 c.code

/-- The fault events among the causes (R141). -/
def Cause.isFault : Cause → Bool
  | .fifoWm | .done => false
  | .fifoOvf | .div0 | .noInv | .mulRed => true

/-- The causes, least code first: the default DEMUX_ORDER (R149). -/
def Cause.all : List Cause := [.fifoWm, .done, .fifoOvf, .div0, .noInv, .mulRed]

/-- Setting a latch of INT_STAT (R144). -/
def State.latch (c : Cause) (s : State) : State :=
  { s with intStat := s.intStat ||| c.bit }

/-- Taking a hardware fault event: `raise f` sets the latch and the log bit, and nothing else
(R143). -/
def State.raise (c : Cause) (s : State) : State :=
  { s with intStat := s.intStat ||| c.bit, faultLog := s.faultLog ||| c.bit }

/-- A cause is pending: its latch is set and its mask bit is 0 (R145). -/
def State.pending (s : State) (c : Cause) : Bool :=
  s.intStat.getLsbD c.code && !s.intMask.getLsbD c.code

/-- `irq_alu` (R145). -/
def State.irqAlu (s : State) : Bool := decide (s.intStat &&& ~~~s.intMask ≠ 0#6)

/-! ## The demultiplexer (R147 to R151) -/

/-- The cause DEMUX_ORDER chooses: the turn's, if it is pending, and where the turn names none the
pending cause of least code (R149, log entry 20). -/
def State.choose (s : State) : Option Cause → Option Cause
  | some c => if s.pending c then some c else none
  | none   => Cause.all.find? s.pending

/-- The trap entry DEMUX.MASK(c): the cause is masked, nothing is saved (R148). -/
def State.demuxMask (c : Cause) (s : State) : State :=
  { s with intMask := s.intMask ||| c.bit, demux := .masked c }

/-- DEMUX.RELEASE(c): the signals the cause releases (R150). -/
def State.demuxRelease (c : Cause) (s : State) : State :=
  { s with
    sigFifo := s.sigFifo || (decide (c = .fifoWm) || c.isFault)
    sigDone := s.sigDone || (decide (c = .done) || c.isFault)
    demux   := .released c }

/-- The trap return DEMUX.CLEAR(c): the latch is cleared, nothing is restored (R151). -/
def State.demuxClear (c : Cause) (s : State) : State :=
  { s with intStat := s.intStat &&& ~~~c.bit, demux := .idle }

/-- The DEMUX's three steps (R148, R150, R151); with nothing to serve the state stays as it is. -/
def State.demuxServe (pick : Option Cause) (s : State) : State :=
  match s.demux with
  | .idle =>
    match s.choose pick with
    | some c => s.demuxMask c
    | none   => s
  | .masked c   => s.demuxRelease c
  | .released c => s.demuxClear c

/-- The DEMUX's step. Under POLL it takes none for this engine, also where the HOST has unmasked a
latched cause itself: polling bypasses interrupts, and nothing but the HOST writes the mask (R83,
R157); the handler is installed under EVENT only (R166). R148's own condition names no policy
(DEDUCED; log entry 31). -/
def State.demuxStep (pick : Option Cause) (s : State) : State :=
  match s.cfg.policy with
  | .poll  => s
  | .event => s.demuxServe pick

/-- DEMUX.SIBLING: the sibling's handler runs outside the block and changes no state of it (R147). -/
def State.demuxSibling (s : State) : State := s

/-! ## SramStore (R46) -/

/-- Two regions of the arena share no byte. -/
def disjointFrom (a size : Nat) (r : Nat × Nat) : Bool :=
  decide (a + size ≤ r.1) || decide (r.1 + r.2 ≤ a)

/-- What the contract of R46 asks of an offset: a multiple of 8, inside the arena, and disjoint from
every live region. -/
def legalRegion (p : Params) (live : List (Nat × Nat)) (size a : Nat) : Bool :=
  decide (a % 8 = 0) && decide (a + size ≤ p.sramSize) && live.all (disjointFrom a size)

/-- `SramStore.alloc`: the parameter's choice where it meets the contract, else Fail (R46, log entry
10). -/
def State.sramAlloc (s : State) (size : Nat) : Option Nat :=
  match allocChoice s.draws s.live size with
  | some a => if legalRegion s.cfg s.live size a then some a else none
  | none   => none

/-- Adding a region to the live set, kept in rising order (log entry 30). -/
def insertRegion (a size : Nat) : List (Nat × Nat) → List (Nat × Nat)
  | [] => [(a, size)]
  | r :: rest => if a < r.1 then (a, size) :: r :: rest else r :: insertRegion a size rest

/-- `SramStore.free`: the region at the offset leaves the live set; no byte changes (R46). -/
def removeRegion (a : Nat) (live : List (Nat × Nat)) : List (Nat × Nat) :=
  live.filter (fun r => r.1 ≠ a)

end Sys2Proof.Machine
end

