-- ==== Sys2Proof/Machine/Flags.lean ====
section
/-! DEFINITION. The flag computations and the views that software reads (R24, R26, R30, R33). -/

namespace Sys2Proof.Machine

/-- The carry out of an addition over `lb` bits (R124). -/
def addCarry (lb a b : Nat) : Bool := decide (2 ^ lb ≤ a + b)

/-- The borrow of a subtraction or comparison (R125, R126). -/
def subBorrow (a b : Nat) : Bool := decide (a < b)

/-- The zero flag of a result whose formula the spec gives (R24, R124, R125). -/
def zeroFlag (result : Nat) : Bool := decide (result = 0)

/-- STATUS, bit 31 first (R26). -/
def State.status (s : State) : Word :=
  0#14 ++ BitVec.ofBool s.zero ++ BitVec.ofBool s.carry ++ 0#3 ++ BitVec.ofBool s.isIdle ++
    BitVec.ofBool s.busy ++ BitVec.ofBool (decide (s.count < s.cfg.fifoWm)) ++
    BitVec.ofBool (decide (s.count = 0)) ++ BitVec.ofBool (decide (s.count = s.cfg.fifoDepth)) ++
    BitVec.ofNat 8 s.count

/-- TOP_PEND: bit 0 irq_alu, bits 2:1 the sibling pending bits (R30, R85). -/
def State.topPend (s : State) : Word :=
  0#29 ++ s.sibPend ++ BitVec.ofBool s.irqAlu

/-- LEN_BITS[s]: bit 31 the occupancy, bits 21:0 the operand width (R33). -/
def State.lenBitsView (s : State) (i : SlotId) : Word :=
  BitVec.ofBool (s.slot i).occ ++ 0#9 ++ (s.slot i).bits

/-- LEN_FULL[s]: bits 21:0 the full length (R33). -/
def State.lenFullView (s : State) (i : SlotId) : Word := 0#10 ++ (s.slot i).full

/-- REG_SIZE[i]: bit 31 the occupancy, bits 30:0 the size (R33). -/
def State.regSizeView (s : State) (i : RegId) : Word :=
  BitVec.ofBool (s.reg i).occ ++ (s.reg i).size.extractLsb' 0 31

/-- A LEN_RSP word: STATUS, SLOT, WORDS32 (R31). -/
def lenAnswer (status : BitVec 2) (slot : BitVec 3) (words : Nat) : Word :=
  status ++ slot ++ 0#10 ++ BitVec.ofNat 17 words

/-- A REG_RSP word: STATUS, ID (R32). -/
def regAnswer (status : BitVec 3) (id : BitVec 5) : Word := status ++ 0#24 ++ id

end Sys2Proof.Machine
end

