-- ==== Sys2Proof/Machine/Operands.lean ====
section
/-! DEFINITION. Operands: a register id is translated through REG_TAB (R49), operand B is a register
or an immediate (R60), some opcodes read and overwrite registers they do not name (R122). -/

namespace Sys2Proof.Machine

/-- T0, hardware scratch (R8). -/
def t0Id : RegId := 30

/-- T1, hardware scratch (R8). -/
def t1Id : RegId := 31

/-- N, the modulus by convention (R8). -/
def nId : RegId := 0

/-- NP, the Barrett tag by convention (R8). -/
def npId : RegId := 1

/-- RESERVED_IDS (R8). -/
def isReserved (i : RegId) : Bool := decide (i = t0Id) || decide (i = t1Id)

/-- The checks of R49 on register `i` for a length of `lb` bits, in their order. -/
def State.checkReg (s : State) (i : RegId) (lb : Nat) : Except Fault Unit :=
  if (s.reg i).occ = false then .error .unboundRegister
  else if 8 * (s.reg i).size.toNat < lb then .error .registerTooSmall
  else .ok ()

/-- The low `lb` bits of the region that register `i` names. -/
def State.regBytes (s : State) (i : RegId) (lb : Nat) : Nat :=
  s.mem.read (s.reg i).addr.toNat (lb / 8)

/-- `RegVal(i, Lb)` (R49). -/
def State.regVal (s : State) (i : RegId) (lb : Nat) : Except Fault Nat :=
  match s.checkReg i lb with
  | .error f => .error f
  | .ok _    => .ok (s.regBytes i lb)

/-- The arena after `MemWrite(R[i].addr, Lb / 8, v mod 2^Lb)` (R49). -/
def State.putReg (s : State) (i : RegId) (lb v : Nat) : State :=
  { s with mem := s.mem.write (s.reg i).addr.toNat (lb / 8) (v % 2 ^ lb) }

/-- `RegStore(i, Lb, v)` (R49). -/
def State.regStore (s : State) (i : RegId) (lb v : Nat) : Except Fault State :=
  match s.checkReg i lb with
  | .error f => .error f
  | .ok _    => .ok (s.putReg i lb v)

/-- Operand B: the register OPB, or the field OPB as a number, zero-extended (R60). -/
def State.operandB (s : State) (c : Cmd) (lb : Nat) : Except Fault Nat :=
  if c.bImm then .ok c.opB.val else s.regVal c.opB lb

/-- The implicitly read registers, by the default of R122, which gives a set; that N is checked before
NP is the model's (DESIGN CHOICE, log entry 25). -/
def implicitReads : Opcode → List RegId
  | .add | .sub | .cmp | .shift | .logic | .div => []
  | .reduce | .modadd | .modsub | .modinv       => [nId]
  | .modmul | .modexp                           => [nId, npId]

/-- The registers an opcode leaves with any value, by the default of R122, which gives a set; that T0
is checked and stored before T1 is the model's (DESIGN CHOICE, log entry 25). -/
def clobbers : Opcode → List RegId
  | .div | .reduce | .modmul | .modexp | .modinv                   => [t0Id, t1Id]
  | .add | .sub | .cmp | .shift | .logic | .modadd | .modsub => []

/-- Whether the result is written: not with DISCARD, and never by CMP (R119, R126). -/
def writesResult (op : Opcode) (c : Cmd) : Bool := !c.discard && decide (op ≠ .cmp)

/-- The values of the implicitly read registers (R119). -/
def State.readContext (s : State) (lb : Nat) : List RegId → Except Fault (List (RegId × Nat))
  | [] => .ok []
  | j :: rest =>
    match s.regVal j lb with
    | .error f => .error f
    | .ok v =>
      match s.readContext lb rest with
      | .error f => .error f
      | .ok more => .ok ((j, v) :: more)

/-- The value of an implicitly read register among the ones that were read. -/
def ctxValue (ctx : List (RegId × Nat)) (i : RegId) : Nat :=
  match ctx.find? (fun e => e.1 = i) with
  | some e => e.2
  | none   => 0

end Sys2Proof.Machine
end

