-- ==== Sys2Proof/Machine/Datapath.lean ====
section
/-! DEFINITION. AluDatapath (R120): what each opcode computes, exactly where the spec gives a formula,
through an opaque constant of Config where the source is silent. -/

namespace Sys2Proof.Machine

open Sys2Proof.Config

/-- What `AluDatapath.exec` returns (R120). -/
structure AluOut where
  result : Nat
  carry  : Bool
  zero   : Bool
  faults : List Cause
  second : List (RegId × Nat)
  deriving DecidableEq, Repr

/-- ADD (R124). -/
def aluAdd (x : AluArgs) : AluOut where
  result := (x.a + x.b) % 2 ^ x.lb
  carry  := addCarry x.lb x.a x.b
  zero   := zeroFlag ((x.a + x.b) % 2 ^ x.lb)
  faults := []
  second := []

/-- `(A − B) mod 2^Lb`: `A − B` when `A ≥ B`, else `2^Lb + A − B` (R125). -/
def subResult (lb a b : Nat) : Nat :=
  if b ≤ a then (a - b) % 2 ^ lb else (2 ^ lb + a - b) % 2 ^ lb

/-- SUB (R125). -/
def aluSub (x : AluArgs) : AluOut where
  result := subResult x.lb x.a x.b
  carry  := subBorrow x.a x.b
  zero   := zeroFlag (subResult x.lb x.a x.b)
  faults := []
  second := []

/-- CMP (R126): the flags of SUB; the result is not used. -/
def aluCmp (x : AluArgs) : AluOut where
  result := 0
  carry  := subBorrow x.a x.b
  zero   := decide (x.a = x.b)
  faults := []
  second := []

/-- The parameter's answer where the source is silent: an opaque result below 2^Lb and two opaque
flags (R120, U11; log entries 8 and 9). -/
def aluParameter (x : AluArgs) (faults : List Cause) : AluOut where
  result := aluResult x % 2 ^ x.lb
  carry  := aluCarry x
  zero   := aluZero x
  faults := faults
  second := []

/-- SHIFT (R127). -/
def aluShift (x : AluArgs) : AluOut := aluParameter x []

/-- LOGIC (R128). -/
def aluLogic (x : AluArgs) : AluOut := aluParameter x []

/-- DIV (R129): DIV0 exactly when the divisor is 0. -/
def aluDiv (x : AluArgs) : AluOut := aluParameter x (if x.b = 0 then [.div0] else [])

/-- REDUCE (R130). -/
def aluReduce (x : AluArgs) : AluOut := aluParameter x []

/-- MODADD (R131). -/
def aluModadd (x : AluArgs) : AluOut := aluParameter x []

/-- MODSUB (R132). -/
def aluModsub (x : AluArgs) : AluOut := aluParameter x []

/-- MODMUL (R133): MULRED as the parameter decides. -/
def aluModmul (x : AluArgs) : AluOut := aluParameter x (if aluMulRed x then [.mulRed] else [])

/-- MODEXP (R134): MULRED as the parameter decides. -/
def aluModexp (x : AluArgs) : AluOut := aluParameter x (if aluMulRed x then [.mulRed] else [])

/-- MODINV (R135): NOINV exactly when the modulus in N is even, 0 included. -/
def aluModinv (x : AluArgs) : AluOut :=
  aluParameter x (if ctxValue x.ctx nId % 2 = 0 then [.noInv] else [])

end Sys2Proof.Machine
end

