-- ==== Sys2Proof/Machine/Engine.lean ====
section
/-! DEFINITION. The ENGINE: POP (R118), and the shared body of RETIRE (R119). -/

namespace Sys2Proof.Machine

open Sys2Proof.Config

/-- ENGINE.POP (R118): the head goes to `cur`; the FIFO_WM latch is set by the pop that starts at the
watermark. With an empty FIFO it is not enabled. -/
def State.pop (s : State) : State :=
  match s.fifo with
  | [] => s
  | w :: rest =>
    let t := { s with fifo := rest, cur := w, busy := true }
    if s.count = s.cfg.fifoWm then t.latch .fifoWm else t

/-- What RETIRE reads before `exec` is called, with the checks of R121 in their order: the slot,
operand A, operand B, the implicitly read registers, the result register. -/
def gather (op : Opcode) (c : Cmd) (s : State) : Except Fault AluArgs :=
  if (s.slot c.len).occ = false then .error .unconfiguredSlot
  else
    let lb := (s.slot c.len).full.toNat
    match s.regVal c.opA lb with
    | .error f => .error f
    | .ok a =>
      match s.operandB c lb with
      | .error f => .error f
      | .ok b =>
        match s.readContext lb (implicitReads op) with
        | .error f => .error f
        | .ok ctx =>
          match (if writesResult op c then s.checkReg c.res lb else .ok ()) with
          | .error f => .error f
          | .ok _ =>
            .ok { opc := op.id, w := (s.slot c.len).bits.toNat, lb := lb, a := a, b := b,
                  req := c.req, ctx := ctx }

/-- After a fault event the result and both flags are any values: they are drawn (R140). -/
def settle (lb : Nat) (out : AluOut) (s : State) : AluOut :=
  if out.faults = [] then out
  else { out with
    result := freeNat s.draws % 2 ^ lb
    carry  := freeBit s.draws
    zero   := freeBit (s.draws + 1) }

/-- The draws `settle` has made. -/
def settleDraws (out : AluOut) (s : State) : State :=
  if out.faults = [] then s else { s with draws := s.draws + 2 }

/-- `for f in out.faults: raise f` (R119). -/
def raiseAll (s : State) : List Cause → State
  | []        => s
  | f :: rest => raiseAll (s.raise f) rest

/-- `for (j, v) in out.second: RegStore(j, Lb, v)` (R119). -/
def storeSecond (lb : Nat) (s : State) : List (RegId × Nat) → Except Fault State
  | [] => .ok s
  | (j, v) :: rest =>
    match s.regStore j lb v with
    | .error f => .error f
    | .ok t    => storeSecond lb t rest

/-- `for j in clobbers: RegStore(j, Lb, any value)`, each value drawn (R119, R122). -/
def storeClobbers (lb : Nat) (s : State) : List RegId → Except Fault State
  | [] => .ok s
  | j :: rest =>
    match s.regStore j lb (freeNat s.draws) with
    | .error f => .error f
    | .ok t    => storeClobbers lb { t with draws := t.draws + 1 } rest

/-- The end of RETIRE: the flags, `busy`, and the DONE latch when the command asked for it (R119,
R144). -/
def finish (c : Cmd) (out : AluOut) (s : State) : State :=
  let t := { s with carry := out.carry, zero := out.zero, busy := false }
  if c.irq then t.latch .done else t

/-- The writes of RETIRE after `exec`: fault events, result, second outputs, clobbers, flags (R119). -/
def commit (op : Opcode) (c : Cmd) (lb : Nat) (out : AluOut) (s : State) : Except Fault State :=
  match (if writesResult op c then s.regStore c.res lb out.result else .ok s) with
  | .error f => .error f
  | .ok s1 =>
    match storeSecond lb s1 out.second with
    | .error f => .error f
    | .ok s2 =>
      match storeClobbers lb s2 (clobbers op) with
      | .error f => .error f
      | .ok s3   => .ok (finish c out s3)

/-- ENGINE.RETIRE of a command with opcode `op`, fields `c` and datapath `alu`, one atomic step
(R119). The agent's step tests that it is enabled; this is its body (log entry 29). -/
def retire (op : Opcode) (alu : AluArgs → AluOut) (c : Cmd) (s : State) : Result :=
  match gather op c s with
  | .error f => .fault f
  | .ok x =>
    let out := alu x
    match commit op c x.lb (settle x.lb out s) (settleDraws out (raiseAll s out.faults)) with
    | .error f => .fault f
    | .ok t    => .next t

end Sys2Proof.Machine
end

