-- ==== Sys2Proof/Machine/Additive.lean ====
section
/-! DEFINITION. The additive commands: ADD, SUB, CMP. -/

namespace Sys2Proof.Machine

/-- ADD (R119, R124). -/
def execAdd (c : Cmd) (s : State) : Result := retire .add aluAdd c s

/-- SUB (R119, R125). -/
def execSub (c : Cmd) (s : State) : Result := retire .sub aluSub c s

/-- CMP (R119, R126). -/
def execCmp (c : Cmd) (s : State) : Result := retire .cmp aluCmp c s

end Sys2Proof.Machine
end

