-- ==== Sys2Proof/Machine/Status.lean ====
section
/-! DEFINITION. The status and interrupt registers. -/

namespace Sys2Proof.Machine

/-- A completed read: its value reaches the HOST and nothing else changes (R47; log entry 6). -/
def State.returnRead (v : Word) (s : State) : State := { s with readData := v }

/-- RD_STATUS (R26, R80). -/
def execRdStatus (s : State) : Result := .next (s.returnRead s.status)

/-- RD_INT_STAT (R81). -/
def execRdIntStat (s : State) : Result := .next (s.returnRead (s.intStat.setWidth 32))

/-- WR_INT_STAT: write one to clear (R82). -/
def execWrIntStat (v : BitVec 6) (s : State) : Result :=
  .next { s with intStat := s.intStat &&& ~~~v }

/-- RD_INT_MASK (R83). -/
def execRdIntMask (s : State) : Result := .next (s.returnRead (s.intMask.setWidth 32))

/-- WR_INT_MASK (R83). -/
def execWrIntMask (v : BitVec 6) (s : State) : Result := .next { s with intMask := v }

/-- RD_FAULT_LOG (R84). -/
def execRdFaultLog (s : State) : Result := .next (s.returnRead (s.faultLog.setWidth 32))

/-- RD_TOP_PEND (R30, R85). -/
def execRdTopPend (s : State) : Result := .next (s.returnRead s.topPend)

end Sys2Proof.Machine
end

