-- ==== Sys2Proof/Machine/Arena.lean ====
section
/-! DEFINITION. The HOST's loads and stores of the arena: SRAM_RD32 and SRAM_WR32. -/

namespace Sys2Proof.Machine

/-- A 32-bit access of the arena: refused where the offset has no meaning (R43, R44), the model fault
while the block is not idle (R45), else the access. -/
def State.arenaAccess (offset : Word) (s : State) (go : State) : Result :=
  if offset.toNat % 4 ≠ 0 then .refused .misalignedAccess
  else if s.cfg.sramSize < offset.toNat + 4 then .refused .outsideArena
  else if s.isIdle then .next go
  else .fault .sramAccessWhileBusy

/-- SRAM_RD32 (R44, R45). -/
def execSramRd32 (offset : Word) (s : State) : Result :=
  s.arenaAccess offset (s.returnRead (BitVec.ofNat 32 (s.mem.read offset.toNat 4)))

/-- SRAM_WR32 (R44, R45). -/
def execSramWr32 (offset v : Word) (s : State) : Result :=
  s.arenaAccess offset { s with mem := s.mem.write offset.toNat 4 v.toNat }

end Sys2Proof.Machine
end

