-- ==== Sys2Proof/Machine/Division.lean ====
section
/-! DEFINITION. The commands DIV and REDUCE. -/

namespace Sys2Proof.Machine

/-- DIV (R119, R129). -/
def execDiv (c : Cmd) (s : State) : Result := retire .div aluDiv c s

/-- REDUCE (R119, R130). -/
def execReduce (c : Cmd) (s : State) : Result := retire .reduce aluReduce c s

end Sys2Proof.Machine
end

