-- ==== Sys2Proof/Machine/Lengths.lean ====
section
/-! DEFINITION. The length-slot allocator: LEN_REQ, LONGDIV, LEN_RESET and the reads of the table. -/

namespace Sys2Proof.Machine

/-- The opcode classes of R92. -/
inductive LenClass where
  | addc
  | modmul
  | modinv
  | floor
  | longdiv
  deriving DecidableEq, Repr

/-- The class of an opcode id, none where the id is not in the table of R61 (R92, R100). -/
def classOf (opc : BitVec 5) : Option LenClass :=
  match opc.toNat with
  | 0x01 => some .addc
  | 0x02 | 0x03 | 0x04 | 0x05 | 0x06 | 0x07 | 0x08 | 0x09 => some .floor
  | 0x0A | 0x0B => some .modmul
  | 0x0C => some .modinv
  | 0x1F => some .longdiv
  | _    => none

/-- `RoundUp64` (R13). -/
def roundUp64 (x : Nat) : Nat := (x + 63) / 64 * 64

/-- The stored operand width (R93, R95). -/
def lenBits (cls : LenClass) (b : Nat) : Nat :=
  match cls with
  | .addc    => b + 1
  | .modmul  => b + 2
  | .modinv  => max b 64 + 16
  | .floor   => max b 64
  | .longdiv => max (2 * roundUp64 b) 192

/-- The stored full length (R94, R95). -/
def lenFull (cls : LenClass) (b : Nat) : Nat :=
  match cls with
  | .longdiv => lenBits .longdiv b
  | .addc    => roundUp64 (lenBits .addc b)
  | .modmul  => roundUp64 (lenBits .modmul b)
  | .modinv  => roundUp64 (lenBits .modinv b)
  | .floor   => roundUp64 (lenBits .floor b)

/-- The occupied slot that holds the pair, of least id (R97). -/
def State.matchingSlot (s : State) (bits full : Nat) : Option SlotId :=
  (List.finRange 8).find? (fun i =>
    (s.slot i).occ && decide ((s.slot i).bits.toNat = bits) && decide ((s.slot i).full.toNat = full))

/-- The free slot of least id (R98). -/
def State.freeSlot (s : State) : Option SlotId :=
  (List.finRange 8).find? (fun i => !(s.slot i).occ)

/-- The OK answer of LEN_REQ (R31, R96). -/
def lenOk (i : SlotId) (full : Nat) : Word := lenAnswer 0#2 (BitVec.ofFin i : BitVec 3) (full / 32)

/-- LEN_REQ for a class and a width: reuse, claim, or EXHAUSTED (R96 to R99). -/
def State.requestSlot (cls : LenClass) (b : Nat) (s : State) : State :=
  let bits := lenBits cls b
  let full := lenFull cls b
  match s.matchingSlot bits full with
  | some i => { s with lenRsp := lenOk i full }
  | none =>
    match s.freeSlot with
    | some i =>
      { s.setSlot i ⟨true, BitVec.ofNat 22 bits, BitVec.ofNat 22 full⟩ with lenRsp := lenOk i full }
    | none => { s with lenRsp := lenAnswer 1#2 0#3 0 }

/-- LEN_REQ (R96), with BAD_OPCODE for an id outside the table (R100). -/
def execLenReq (opc : BitVec 5) (width : BitVec 20) (s : State) : Result :=
  match classOf opc with
  | none     => .next { s with lenRsp := lenAnswer 2#2 0#3 0 }
  | some cls => .next (s.requestSlot cls width.toNat)

/-- LONGDIV: the LEN_REQ whose data word carries the virtual opcode (R95, R136). -/
def execLongdiv (width : BitVec 20) (s : State) : Result :=
  .next (s.requestSlot .longdiv width.toNat)

/-- LEN_RESET (R102). -/
def execLenReset (s : State) : Result :=
  if s.isIdle then .next { s with lenTab := Vector.replicate 8 ⟨false, 0#22, 0#22⟩ }
  else .fault .slotResetWhileBusy

/-- RD_LEN_RSP (R103). -/
def execRdLenRsp (s : State) : Result := .next (s.returnRead s.lenRsp)

/-- RD_LEN_BITS[s] (R103). -/
def execRdLenBits (i : SlotId) (s : State) : Result := .next (s.returnRead (s.lenBitsView i))

/-- RD_LEN_FULL[s] (R103). -/
def execRdLenFull (i : SlotId) (s : State) : Result := .next (s.returnRead (s.lenFullView i))

end Sys2Proof.Machine
end

