-- ==== Sys2Proof/Machine/Modular.lean ====
section
/-! DEFINITION. The modular commands: MODADD, MODSUB, MODMUL, MODEXP, MODINV. -/

namespace Sys2Proof.Machine

/-- MODADD (R119, R131). -/
def execModadd (c : Cmd) (s : State) : Result := retire .modadd aluModadd c s

/-- MODSUB (R119, R132). -/
def execModsub (c : Cmd) (s : State) : Result := retire .modsub aluModsub c s

/-- MODMUL (R119, R133). -/
def execModmul (c : Cmd) (s : State) : Result := retire .modmul aluModmul c s

/-- MODEXP (R119, R134). -/
def execModexp (c : Cmd) (s : State) : Result := retire .modexp aluModexp c s

/-- MODINV (R119, R135). -/
def execModinv (c : Cmd) (s : State) : Result := retire .modinv aluModinv c s

end Sys2Proof.Machine
end

