-- ==== Sys2Proof/Machine/Queue.lean ====
section
/-! DEFINITION. Submission and the two blocking waits: PUSH, SUBMIT, WAIT_ROOM, WAIT_IDLE and the steps
a blocked HOST takes. -/

namespace Sys2Proof.Machine

open Sys2Proof.Config

/-- PUSH of a word: appended with its reserved bits cleared, or dropped with FIFO_OVF when the FIFO
is full (R64, R74). -/
def State.pushWord (w : Word) (s : State) : State :=
  if s.room then { s with fifo := s.fifo ++ [fifoEntry w] } else s.raise .fifoOvf

/-- A wait that completes under EVENT leaves its own cause masked; under POLL it writes no mask (R76
to R79). -/
def State.maskOwn (c : Cause) (s : State) : State :=
  match s.cfg.policy with
  | .poll  => s
  | .event => { s with intMask := s.intMask ||| c.bit }

/-- The bits a wait unmasks when it arms: its own cause and the four fault causes (R77, R79). -/
def armMask (c : Cause) (m : BitVec 6) : BitVec 6 := m &&& ~~~(c.bit ||| 0x3C#6)

/-- The completing step of WAIT_ROOM or SUBMIT: a WAIT_ROOM returns STATUS, a SUBMIT pushes its word
in the same step (R75 to R77). -/
def State.finishRoom (s : State) : State :=
  let t := { s.maskOwn .fifoWm with hwait := .none }
  match s.held with
  | none   => { t with readData := s.status }
  | some w => { t with held := none }.pushWord w

/-- The completing step of WAIT_IDLE, which returns STATUS (R78, R79). -/
def State.finishIdle (s : State) : State :=
  { s.maskOwn .done with hwait := .none, readData := s.status }

/-- CHECK of WAIT_ROOM without room: clear the signal, unmask, block (R77). -/
def State.armRoom (s : State) : State :=
  { s with sigFifo := false, intMask := armMask .fifoWm s.intMask, hwait := .roomArmed }

/-- CHECK of WAIT_IDLE while not idle: clear the signal, unmask, block (R79). -/
def State.armIdle (s : State) : State :=
  { s with sigDone := false, intMask := armMask .done s.intMask, hwait := .idleArmed }

/-- WAKE of WAIT_ROOM (R77). -/
def State.wakeRoom (s : State) : State := { s with sigFifo := false, hwait := .roomCheck }

/-- WAKE of WAIT_IDLE (R79). -/
def State.wakeIdle (s : State) : State := { s with sigDone := false, hwait := .idleCheck }

/-- Whether the wait that is open has an enabled step (R76 to R79). -/
def State.waitEnabled (s : State) : Bool :=
  match s.hwait, s.cfg.policy with
  | .none, _          => false
  | .roomCheck, .poll  => s.room
  | .roomCheck, .event => true
  | .roomArmed, .poll  => false
  | .roomArmed, .event => s.sigFifo && decide (s.demux = .idle)
  | .idleCheck, .poll  => s.isIdle
  | .idleCheck, .event => true
  | .idleArmed, .poll  => false
  | .idleArmed, .event => s.sigDone && decide (s.demux = .idle)

/-- The step of the wait that is open; where it has none enabled, the state stays (R76 to R79). -/
def State.waitStep (s : State) : State :=
  if s.waitEnabled then
    match s.hwait with
    | .none      => s
    | .roomCheck => if s.room then s.finishRoom else s.armRoom
    | .roomArmed => s.wakeRoom
    | .idleCheck => if s.isIdle then s.finishIdle else s.armIdle
    | .idleArmed => s.wakeIdle
  else s

/-- Opening a wait for room: it completes at once where there is room, else the HOST is blocked in
ROOM_CHECK (R76, R77; log entry 12). -/
def State.startRoom (held : Option Word) (s : State) : State :=
  let t := { s with hwait := .roomCheck, held := held }
  if t.room then t.finishRoom else t

/-- Opening a wait for idleness: it completes at once on an idle block, else the HOST is blocked in
IDLE_CHECK (R78, R79; log entry 12). -/
def State.startIdle (s : State) : State :=
  let t := { s with hwait := .idleCheck }
  if t.isIdle then t.finishIdle else t

/-- PUSH (R74). -/
def execPush (w : Word) (s : State) : Result := .next (s.pushWord w)

/-- SUBMIT (R75). -/
def execSubmit (w : Word) (s : State) : Result := .next (s.startRoom (some w))

/-- WAIT_ROOM (R76, R77). -/
def execWaitRoom (s : State) : Result := .next (s.startRoom none)

/-- WAIT_IDLE (R78, R79). -/
def execWaitIdle (s : State) : Result := .next s.startIdle

end Sys2Proof.Machine
end

