-- ==== Sys2Proof/Machine/Registers.lean ====
section
/-! DEFINITION. The register allocator: REG_ALLOC, REG_BIND, REG_FREE and the reads of its table. -/

namespace Sys2Proof.Machine

/-- The OK answer (R32). -/
def regOk (i : RegId) : Word := regAnswer 0#3 (BitVec.ofFin i : BitVec 5)

/-- The answer NO_ID (R32). -/
def ansNoId : Word := regAnswer 1#3 0#5

/-- The answer NO_SRAM (R32). -/
def ansNoSram : Word := regAnswer 2#3 0#5

/-- The answer BAD_SLOT (R32). -/
def ansBadSlot : Word := regAnswer 3#3 0#5

/-- The answer BAD_ID (R32). -/
def ansBadId : Word := regAnswer 4#3 0#5

/-- The free pool id of least number: the pool is the 30 ids that are not reserved (R104, R105). -/
def State.freeReg (s : State) : Option RegId :=
  (List.finRange 32).find? (fun i => !isReserved i && !(s.reg i).occ)

/-- The bytes a register sized by a slot has (R105). -/
def State.slotBytes (s : State) (slot : SlotId) : Nat := (s.slot slot).full.toNat / 8

/-- A register gets its region: the region becomes live, the table entry is programmed, the region
is zero-filled, the answer is OK (R46, R105, R107). -/
def State.bindReg (i : RegId) (a size : Nat) (s : State) : State :=
  { s.setReg i ⟨true, BitVec.ofNat 32 a, BitVec.ofNat 32 size⟩ with
    live   := insertRegion a size s.live
    mem    := s.mem.write a size 0
    regRsp := regOk i }

/-- The end of REG_ALLOC and REG_BIND once the id is known, for an answer of SramStore: NO_SRAM, the
model fault while the block is not idle, or the binding (R105, R108, R116). -/
def State.allocateWith (answer : Option Nat) (i : RegId) (size : Nat) (s : State) : Result :=
  match answer with
  | none   => .next { s with regRsp := ansNoSram }
  | some a => if s.isIdle then .next (s.bindReg i a size) else .fault .sramAccessWhileBusy

/-- The call of SramStore counts as one draw (log entry 10). -/
def State.drawn (s : State) : State := { s with draws := s.draws + 1 }

/-- REG_ALLOC (R105): BAD_SLOT, NO_ID, then the allocation. -/
def execRegAlloc (slot : SlotId) (s : State) : Result :=
  if (s.slot slot).occ = false then .next { s with regRsp := ansBadSlot }
  else
    match s.freeReg with
    | none   => .next { s with regRsp := ansNoId }
    | some i => s.drawn.allocateWith (s.sramAlloc (s.slotBytes slot)) i (s.slotBytes slot)

/-- REG_BIND (R108): BAD_ID, BAD_SLOT, then the allocation. -/
def execRegBind (i : RegId) (slot : SlotId) (s : State) : Result :=
  if isReserved i = false ∨ (s.reg i).occ = true then .next { s with regRsp := ansBadId }
  else if (s.slot slot).occ = false then .next { s with regRsp := ansBadSlot }
  else s.drawn.allocateWith (s.sramAlloc (s.slotBytes slot)) i (s.slotBytes slot)

/-- A register loses its region: the region is zeroed, then released, and the entry cleared (R109). -/
def State.unbindReg (i : RegId) (s : State) : State :=
  { s.setReg i ⟨false, 0#32, 0#32⟩ with
    mem    := s.mem.write (s.reg i).addr.toNat (s.reg i).size.toNat 0
    live   := removeRegion (s.reg i).addr.toNat s.live
    regRsp := regOk i }

/-- REG_FREE (R109), which changes nothing but the answer on a free id (R110). -/
def execRegFree (i : RegId) (s : State) : Result :=
  if (s.reg i).occ = false then .next { s with regRsp := regOk i }
  else if s.isIdle then .next (s.unbindReg i)
  else .fault .sramAccessWhileBusy

/-- RD_REG_RSP (R113). -/
def execRdRegRsp (s : State) : Result := .next (s.returnRead s.regRsp)

/-- RD_REG_ADDR[i] (R113). -/
def execRdRegAddr (i : RegId) (s : State) : Result := .next (s.returnRead (s.reg i).addr)

/-- RD_REG_SIZE[i] (R113). -/
def execRdRegSize (i : RegId) (s : State) : Result := .next (s.returnRead (s.regSizeView i))

end Sys2Proof.Machine
end

