-- ==== Sys2Proof/Machine/ShiftLogic.lean ====
section
/-! DEFINITION. The commands SHIFT and LOGIC. -/

namespace Sys2Proof.Machine

/-- SHIFT (R119, R127). -/
def execShift (c : Cmd) (s : State) : Result := retire .shift aluShift c s

/-- LOGIC (R119, R128). -/
def execLogic (c : Cmd) (s : State) : Result := retire .logic aluLogic c s

end Sys2Proof.Machine
end

