-- ==== Sys2Proof/Machine/Dispatch.lean ====
section
/-! DEFINITION. The meaning of each instruction. -/

namespace Sys2Proof.Machine

def exec (i : Instr) (s : State) : Host.Outcome State Fault Refusal :=
  match i with
  | .add c => Sys2Proof.Machine.execAdd c s
  | .sub c => Sys2Proof.Machine.execSub c s
  | .cmp c => Sys2Proof.Machine.execCmp c s
  | .shift c => Sys2Proof.Machine.execShift c s
  | .logic c => Sys2Proof.Machine.execLogic c s
  | .div c => Sys2Proof.Machine.execDiv c s
  | .reduce c => Sys2Proof.Machine.execReduce c s
  | .modadd c => Sys2Proof.Machine.execModadd c s
  | .modsub c => Sys2Proof.Machine.execModsub c s
  | .modmul c => Sys2Proof.Machine.execModmul c s
  | .modexp c => Sys2Proof.Machine.execModexp c s
  | .modinv c => Sys2Proof.Machine.execModinv c s
  | .longdiv w => Sys2Proof.Machine.execLongdiv w s
  | .push w => Sys2Proof.Machine.execPush w s
  | .rdStatus => Sys2Proof.Machine.execRdStatus s
  | .rdIntStat => Sys2Proof.Machine.execRdIntStat s
  | .wrIntStat v => Sys2Proof.Machine.execWrIntStat v s
  | .rdIntMask => Sys2Proof.Machine.execRdIntMask s
  | .wrIntMask v => Sys2Proof.Machine.execWrIntMask v s
  | .rdFaultLog => Sys2Proof.Machine.execRdFaultLog s
  | .rdTopPend => Sys2Proof.Machine.execRdTopPend s
  | .lenReq o w => Sys2Proof.Machine.execLenReq o w s
  | .rdLenRsp => Sys2Proof.Machine.execRdLenRsp s
  | .lenReset => Sys2Proof.Machine.execLenReset s
  | .regAlloc k => Sys2Proof.Machine.execRegAlloc k s
  | .regBind r k => Sys2Proof.Machine.execRegBind r k s
  | .regFree r => Sys2Proof.Machine.execRegFree r s
  | .rdRegRsp => Sys2Proof.Machine.execRdRegRsp s
  | .waitRoom => Sys2Proof.Machine.execWaitRoom s
  | .waitIdle => Sys2Proof.Machine.execWaitIdle s
  | .submit w => Sys2Proof.Machine.execSubmit w s
  | .rdLenBits k => Sys2Proof.Machine.execRdLenBits k s
  | .rdLenFull k => Sys2Proof.Machine.execRdLenFull k s
  | .rdRegAddr r => Sys2Proof.Machine.execRdRegAddr r s
  | .rdRegSize r => Sys2Proof.Machine.execRdRegSize r s
  | .sramRd32 a => Sys2Proof.Machine.execSramRd32 a s
  | .sramWr32 a v => Sys2Proof.Machine.execSramWr32 a v s

end Sys2Proof.Machine
end

