-- ==== Sys2Proof/Machine/Agents.lean ====
section
/-! DEFINITION. The turns of the three agents (R9 to R11): the HOST issues its next bus access or takes
a step of the wait it is in; the ENGINE pops or retires; the DEMUX serves a cause. -/

namespace Sys2Proof.Machine

open Sys2Proof.Config

/-- An access by bus address, routed through the two windows (R39 to R41, R48). -/
def routeAddress (p : Params) (write : Bool) (addr data : Word) : Except Refusal HostOp :=
  if p.aluBase.toNat ≤ addr.toNat ∧ addr.toNat < p.aluBase.toNat + 0x200 then
    .ok (.bus (BitVec.ofBool write ++ BitVec.ofNat 12 (addr.toNat - p.aluBase.toNat)) data)
  else if p.sramBase.toNat ≤ addr.toNat ∧ addr.toNat < p.sramBase.toNat + p.sramSize then
    .ok (.sram (BitVec.ofBool write ++ BitVec.ofNat 32 (addr.toNat - p.sramBase.toNat)) data)
  else .error .noDevice

/-- A bus access in coded form; an access that is not 32 bits wide is refused (R40, R43). -/
def routeAccess (p : Params) : HostAccess → Except Refusal HostOp
  | .coded op => .ok op
  | .mmio write bytes addr data =>
    if bytes ≠ 4 then .error .badAccessWidth else routeAddress p write addr data

/-- A bus access that is no instruction: the reads and writes R90 gives a meaning take it, the others
are refused (R40, R43; log entry 16). -/
def otherAccess (e : DecodeError) (s : State) : Result :=
  match e with
  | .readsAsZero           => .next (s.returnRead 0#32)
  | .writeIgnored          => .next s
  | .misalignedOffset      => .refused .misalignedAccess
  | .misalignedArenaOffset => .refused .misalignedAccess
  | .outsideRegisterSpace  => .refused .outsideRegisterSpace
  | .unassignedOpcode      => .refused .notABusAccess

/-- The HOST issues a bus access. -/
def issue (a : HostAccess) (s : State) : Result :=
  match routeAccess s.cfg a with
  | .error r => .refused r
  | .ok op =>
    match decode (.host op) with
    | .ok i    => exec i s
    | .error e => otherAccess e s

/-- The HOST's turn: while a wait is open, only the wait's own step (R36, R73); else the next bus
access of its program; with no access left it has no step. -/
def hostTurn (s : State) : Result :=
  if s.hwait = .none then
    match s.program with
    | []        => .next s
    | a :: rest => issue a { s with program := rest }
  else .next s.waitStep

/-- The ENGINE's turn (R117): RETIRE while busy, never enabled for an unassigned opcode (R137); else
POP. -/
def engineTurn (s : State) : Result :=
  if s.busy then
    match decode (.command s.cur) with
    | .ok i    => exec i s
    | .error _ => .next s
  else .next s.pop

/-- The turn of one agent; a turn of an agent that is not enabled passes (R11, log entry 14). -/
def takeTurn (act : Act) (s : State) : Result :=
  match act with
  | .host       => hostTurn s
  | .engine     => engineTurn s
  | .demux pick => .next (s.demuxStep pick)
  | .sibling    => .next s.demuxSibling

/-- Whether the HOST has an enabled step. -/
def State.hostEnabled (s : State) : Bool :=
  if s.hwait = .none then !s.program.isEmpty else s.waitEnabled

/-- Whether the ENGINE has an enabled step (R117 to R119, R137). -/
def State.engineEnabled (s : State) : Bool :=
  if s.busy then (decodeCommand s.cur).isSome else !s.fifo.isEmpty

/-- Whether the DEMUX has an enabled step for this engine (R148 to R151), which it never has under
POLL (R157; log entry 31). -/
def State.demuxEnabled (s : State) : Bool :=
  decide (s.cfg.policy = .event) && (decide (s.demux ≠ .idle) || s.irqAlu)

/-- The end of a run: the HOST has nothing left and the block is idle (R180). -/
def State.ended (s : State) : Bool :=
  s.program.isEmpty && s.isIdle && decide (s.hwait = .none) && decide (s.demux = .idle) && !s.irqAlu

/-- A step with no turn scheduled: the first enabled of HOST, ENGINE and DEMUX goes; with none
enabled the run has ended or is stuck (R180; log entries 1, 14 and 15). -/
def unscheduledStep (s : State) : Result :=
  if s.hostEnabled then takeTurn .host s
  else if s.engineEnabled then takeTurn .engine s
  else if s.demuxEnabled then takeTurn (.demux none) s
  else if s.ended then .refused .runEnded
  else .fault .stuck

/-- A step with a turn scheduled: the turn and the sibling bits it carries are taken (R10, R38). -/
def scheduledStep (t : Turn) (rest : List Turn) (s : State) : Result :=
  takeTurn t.act { s with sched := rest, sibPend := t.sib }

/-! ## Placing an instruction where the next step fetches it -/

/-- The HOST gets the next turn, in no wait, with `op` as its next access. -/
def State.placeHost (op : HostOp) (s : State) : State :=
  { s with
    hwait   := .none
    program := .coded op :: s.program
    sched   := ⟨.host, s.sibPend⟩ :: s.sched }

/-- The ENGINE gets the next turn, holding the command word `w` it has popped. -/
def State.placeCommand (w : Word) (s : State) : State :=
  { s with
    busy  := true
    cur   := fifoEntry w
    sched := ⟨.engine, s.sibPend⟩ :: s.sched }

/-- The words placed for the next step. -/
def State.placeWords (ws : Words) (s : State) : State :=
  match ws with
  | .command w => s.placeCommand w
  | .host op   => s.placeHost op

end Sys2Proof.Machine
end

