-- ==== Sys2Proof/Machine/Step.lean ====
section
/-! DEFINITION. The step: the agent whose turn it is takes one atomic step (R9 to R11). -/

namespace Sys2Proof.Machine

/-- One step. -/
def step (s : State) : Host.Outcome State Fault Refusal :=
  match s.sched with
  | []        => unscheduledStep s
  | t :: rest => scheduledStep t rest s

/-- `s` with the row's bits placed so that the next step runs that instruction: a command word as the
command the ENGINE holds, a bus access as the HOST's next (log entry 2). -/
def State.withFetchWord (s : State) (nbits w : Nat) : State :=
  match tableWords nbits w with
  | some ws => s.placeWords ws
  | none    => s

end Sys2Proof.Machine
end

