-- ==== Sys2Proof/Safety.lean ====
section
/-! DEFINITION. The terms claims use: when a command's operands are in order, the invariants of the
state, the end of a run, fairness, and the named properties of AluDatapath. -/

namespace Sys2Proof

/-- The command with an opcode and fields. -/
def Opcode.instr (op : Opcode) (c : Cmd) : Instr :=
  match op with
  | .add    => .add c
  | .sub    => .sub c
  | .cmp    => .cmp c
  | .shift  => .shift c
  | .logic  => .logic c
  | .div    => .div c
  | .reduce => .reduce c
  | .modadd => .modadd c
  | .modsub => .modsub c
  | .modmul => .modmul c
  | .modexp => .modexp c
  | .modinv => .modinv c

end Sys2Proof

namespace Sys2Proof.Machine

open Sys2Proof.Config

/-! ## Commands and their operands (R119, R121) -/

/-- Lb of a command: the full length of its slot. -/
def State.cmdLb (s : State) (c : Cmd) : Nat := (s.slot c.len).full.toNat

/-- Operand A of a command, as a number. -/
def State.valA (s : State) (c : Cmd) : Nat := s.regBytes c.opA (s.cmdLb c)

/-- Operand B of a command, as a number (R60). -/
def State.valB (s : State) (c : Cmd) : Nat :=
  if c.bImm then c.opB.val else s.regBytes c.opB (s.cmdLb c)

/-- A register is occupied and holds at least `lb` bits (R121). -/
abbrev State.fits (s : State) (i : RegId) (lb : Nat) : Prop :=
  (s.reg i).occ = true ∧ lb ≤ 8 * (s.reg i).size.toNat

/-- The arguments RETIRE gives to `AluDatapath.exec` (R119). -/
def State.aluArgs (s : State) (op : Opcode) (c : Cmd) : AluArgs where
  opc := op.id
  w   := (s.slot c.len).bits.toNat
  lb  := s.cmdLb c
  a   := s.valA c
  b   := s.valB c
  req := c.req
  ctx := (implicitReads op).map (fun j => (j, s.regBytes j (s.cmdLb c)))

/-- The registers RETIRE checks, in the order of R121, the overwritten scratch last (R119, R122). -/
def checkedRegs (op : Opcode) (c : Cmd) : List RegId :=
  [c.opA] ++ (if c.bImm then [] else [c.opB]) ++ implicitReads op ++
    (if writesResult op c then [c.res] else []) ++ clobbers op

/-- A command finds everything it names in order: its slot is occupied and every register it reads
or writes is occupied and large enough (R121, R169, R170). -/
abbrev State.ready (s : State) (op : Opcode) (c : Cmd) : Prop :=
  (s.slot c.len).occ = true ∧ ∀ i ∈ checkedRegs op c, s.fits i (s.cmdLb c)

/-- The arena after the result of a command is written, or not with DISCARD (R119). -/
def State.memWithResult (s : State) (c : Cmd) (v : Nat) : Memory :=
  if c.discard then s.mem
  else s.mem.write (s.reg c.res).addr.toNat (s.cmdLb c / 8) (v % 2 ^ s.cmdLb c)

/-- The arena after T0 and T1 got the values `v0` and `v1`. -/
def State.memWithScratch (s : State) (c : Cmd) (m : Memory) (v0 v1 : Nat) : Memory :=
  (m.write (s.reg t0Id).addr.toNat (s.cmdLb c / 8) (v0 % 2 ^ s.cmdLb c)).write
    (s.reg t1Id).addr.toNat (s.cmdLb c / 8) (v1 % 2 ^ s.cmdLb c)

/-- The latches after a command retires: DONE is set when it asked for it (R144). -/
def State.intStatDone (s : State) (c : Cmd) : BitVec 6 :=
  if c.irq then s.intStat ||| Cause.bit .done else s.intStat

/-- The offset lies among the bytes a command may store to: the result's, when it is written, and
those of the registers it overwrites (R119, R122). -/
def State.cmdStores (s : State) (op : Opcode) (c : Cmd) (a : Nat) : Prop :=
  (writesResult op c = true ∧ (s.reg c.res).addr.toNat ≤ a ∧
    a < (s.reg c.res).addr.toNat + s.cmdLb c / 8) ∨
  ∃ j ∈ clobbers op, (s.reg j).addr.toNat ≤ a ∧ a < (s.reg j).addr.toNat + s.cmdLb c / 8

/-- The length-slot request an instruction makes: class and width (R96, R136). -/
def lenRequestOf : Instr → Option (LenClass × Nat)
  | .longdiv w    => some (.longdiv, w.toNat)
  | .lenReq opc w =>
    match classOf opc with
    | some cls => some (cls, w.toNat)
    | none     => none
  | _ => none

/-- The HOST's next access runs instruction `i` when the HOST takes its turn. -/
def State.hostNext (s : State) (i : Instr) : Prop :=
  s.hwait = .none ∧ ∃ a rest op, s.program = a :: rest ∧ routeAccess s.cfg a = .ok op ∧
    decode (.host op) = .ok i

/-! ## Invariants -/

/-- The arena is canonical and lists no byte outside it (R37). -/
abbrev State.arenaOk (s : State) : Prop :=
  s.mem.wf ∧ ∀ c ∈ s.mem, c.1 < s.cfg.sramSize

/-- R18: at most FIFO_DEPTH entries, each with bits 4:0 equal to 0; so is the command held. -/
abbrev State.fifoOk (s : State) : Prop :=
  s.fifo.length ≤ s.cfg.fifoDepth ∧ (∀ w ∈ s.fifo, w.extractLsb' 0 5 = 0#5) ∧
  s.cur.extractLsb' 0 5 = 0#5

/-- R21 (b) and (c), and that a free slot holds zeros. -/
abbrev State.lenTabOk (s : State) : Prop :=
  (∀ i : SlotId, (s.slot i).occ = true →
    (s.slot i).full.toNat % 64 = 0 ∧ 64 ≤ (s.slot i).full.toNat ∧
    (s.slot i).bits.toNat ≤ (s.slot i).full.toNat) ∧
  (∀ i j : SlotId, (s.slot i).occ = true → (s.slot j).occ = true →
    (s.slot i).bits = (s.slot j).bits → (s.slot i).full = (s.slot j).full → i = j) ∧
  (∀ i : SlotId, (s.slot i).occ = false → s.slot i = ⟨false, 0#22, 0#22⟩)

/-- R23 (a), (b) and (c). -/
abbrev State.regTabOk (s : State) : Prop :=
  (∀ i : RegId, (s.reg i).occ = true →
    8 ≤ (s.reg i).size.toNat ∧ (s.reg i).size.toNat % 8 = 0 ∧ (s.reg i).addr.toNat % 8 = 0 ∧
    (s.reg i).addr.toNat + (s.reg i).size.toNat ≤ s.cfg.sramSize ∧
    ((s.reg i).addr.toNat, (s.reg i).size.toNat) ∈ s.live) ∧
  (∀ i j : RegId, (s.reg i).occ = true → (s.reg j).occ = true → i ≠ j →
    (s.reg i).addr.toNat + (s.reg i).size.toNat ≤ (s.reg j).addr.toNat ∨
    (s.reg j).addr.toNat + (s.reg j).size.toNat ≤ (s.reg i).addr.toNat) ∧
  (∀ i : RegId, (s.reg i).occ = false → s.reg i = ⟨false, 0#32, 0#32⟩)

/-- The live set: regions of at least 8 bytes in rising order, none reaching into the next, none out
of the arena, each the region of an occupied register (R37, R46). -/
abbrev State.liveOk (s : State) : Prop :=
  s.live.Pairwise (fun x y => x.1 + x.2 ≤ y.1) ∧
  (∀ r ∈ s.live, 8 ≤ r.2 ∧ r.1 % 8 = 0 ∧ r.2 % 8 = 0 ∧ r.1 + r.2 ≤ s.cfg.sramSize) ∧
  (∀ r ∈ s.live, ∃ i : RegId, (s.reg i).occ = true ∧
    (s.reg i).addr.toNat = r.1 ∧ (s.reg i).size.toNat = r.2)

/-- Bits 0 and 1 of FAULT_LOG are hardwired 0 (R29). -/
abbrev State.logOk (s : State) : Prop := s.faultLog.extractLsb' 0 2 = 0#2

/-- LEN_RSP and REG_RSP: no status code that is never produced, and 0 in the reserved bits (R31,
R32). -/
abbrev State.rspOk (s : State) : Prop :=
  s.lenRsp.extractLsb' 30 2 ≠ 3#2 ∧ s.lenRsp.extractLsb' 17 10 = 0#10 ∧
  (s.regRsp.extractLsb' 29 3).toNat ≤ 4 ∧ s.regRsp.extractLsb' 5 24 = 0#24

/-- The wait phases: none is armed under POLL, and a SUBMIT is held open only in a wait for room
(R36, R75 to R79). -/
abbrev State.waitOk (s : State) : Prop :=
  (s.cfg.policy = .poll → s.hwait ≠ .roomArmed ∧ s.hwait ≠ .idleArmed) ∧
  (s.held ≠ none → s.hwait = .roomCheck ∨ s.hwait = .roomArmed)

/-- Everything above, in a legal configuration. -/
abbrev State.ok (s : State) : Prop :=
  s.cfg.legal ∧ s.arenaOk ∧ s.fifoOk ∧ s.lenTabOk ∧ s.regTabOk ∧ s.liveOk ∧ s.logOk ∧ s.rspOk ∧
  s.waitOk

/-! ## Runs (R123, R156, R180, R181) -/

/-- A run that never stops. -/
def IsRun (r : Nat → State) : Prop := ∀ n, step (r n) = .next (r (n + 1))

/-- The agent of the next step: the scheduled turn's, or the first enabled one. -/
def State.nextAgent (s : State) : Act :=
  match s.sched with
  | t :: _ => t.act
  | [] => if s.hostEnabled then .host else if s.engineEnabled then .engine else .demux none

/-- Weak fairness of the ENGINE: a POP or RETIRE that stays enabled is eventually taken (R123). -/
def EngineFair (r : Nat → State) : Prop :=
  ∀ n, (∀ m, n ≤ m → (r m).engineEnabled = true) → ∃ m, n ≤ m ∧ (r m).nextAgent = .engine

/-- Weak fairness of the DEMUX (R156). -/
def DemuxFair (r : Nat → State) : Prop :=
  ∀ n, (∀ m, n ≤ m → (r m).demuxEnabled = true) →
    ∃ m, n ≤ m ∧ ∃ pick, (r m).nextAgent = .demux pick

/-- The premise (c) of R181 on a state at the end of a run: it ended, and no fault event happened. -/
abbrev State.claimable (s : State) : Prop := s.ended = true ∧ s.faultLog = 0#6

/-! ## Named properties of AluDatapath (R129 to R135, R139), which a claim may assume and must name -/

/-- The arguments are natural numbers below 2^Lb (R120). -/
def ArgsInRange (x : AluArgs) : Prop :=
  x.a < 2 ^ x.lb ∧ x.b < 2 ^ x.lb ∧ ∀ e ∈ x.ctx, e.2 < 2 ^ x.lb

/-- R24's sentence on the zero flag, as a property of the parameter: zero is 1 exactly when the result
is 0. The model leaves the flag free (log entry 9), so a claim that wants the sentence for an opcode
other than ADD, SUB and CMP names this. -/
def PZero : Prop := ∀ x : AluArgs, aluZero x = decide (aluResult x % 2 ^ x.lb = 0)

/-- P_DIV (R129). -/
def PDiv : Prop := ∀ x : AluArgs, x.opc = Opcode.id .div → ArgsInRange x → 0 < x.b →
  (aluDiv x).result = x.a / x.b

/-- P_REDUCE (R130). -/
def PReduce : Prop := ∀ x : AluArgs, x.opc = Opcode.id .reduce → ArgsInRange x →
  0 < ctxValue x.ctx nId → (aluReduce x).result = x.a % ctxValue x.ctx nId

/-- P_MODADD (R131). -/
def PModadd : Prop := ∀ x : AluArgs, x.opc = Opcode.id .modadd → ArgsInRange x →
  x.a < ctxValue x.ctx nId → x.b < ctxValue x.ctx nId →
  (aluModadd x).result = (x.a + x.b) % ctxValue x.ctx nId

/-- P_MODSUB (R132). -/
def PModsub : Prop := ∀ x : AluArgs, x.opc = Opcode.id .modsub → ArgsInRange x →
  x.a < ctxValue x.ctx nId → x.b < ctxValue x.ctx nId →
  (aluModsub x).result = (x.a + ctxValue x.ctx nId - x.b) % ctxValue x.ctx nId

/-- P_MODMUL (R133), for a predicate that says which number is the Barrett tag of a modulus: its
formula is not in the spec. -/
def PModmul (isTag : Nat → Nat → Prop) : Prop :=
  ∀ x : AluArgs, x.opc = Opcode.id .modmul → ArgsInRange x →
  x.a < ctxValue x.ctx nId → x.b < ctxValue x.ctx nId →
  isTag (ctxValue x.ctx npId) (ctxValue x.ctx nId) →
  (aluModmul x).faults = [] ∧ (aluModmul x).result = x.a * x.b % ctxValue x.ctx nId

/-- P_MODEXP (R134), under the conditions of P_MODMUL. -/
def PModexp (isTag : Nat → Nat → Prop) : Prop :=
  ∀ x : AluArgs, x.opc = Opcode.id .modexp → ArgsInRange x →
  x.a < ctxValue x.ctx nId → x.b < ctxValue x.ctx nId →
  isTag (ctxValue x.ctx npId) (ctxValue x.ctx nId) →
  (aluModexp x).faults = [] ∧ (aluModexp x).result = x.a ^ x.b % ctxValue x.ctx nId

/-- P_MODINV (R135). -/
def PModinv : Prop := ∀ x : AluArgs, x.opc = Opcode.id .modinv → ArgsInRange x →
  ctxValue x.ctx nId % 2 = 1 → 0 < x.a → x.a < ctxValue x.ctx nId →
  Nat.gcd x.a (ctxValue x.ctx nId) = 1 →
  (aluModinv x).result * x.a % ctxValue x.ctx nId = 1 ∧
  (aluModinv x).result < ctxValue x.ctx nId

end Sys2Proof.Machine
end

