-- ==== Sys2Proof/Certificates/Slice0/Obligations.lean ====
section
/-! DEFINITION. The statements for the provers. -/

open Sys2Proof Sys2Proof.Machine Sys2Proof.Config

/-! ## Encoding -/

/-- R59, R69, R70: every well-formed instruction, at every value of its operands, is what the decoder
reads from its own words. -/
def Obligations.DecodeOfEncodeIsIdentity : Prop :=
  ∀ i : Instr, i.wf = true → decode (encode i) = .ok i

/-- R59, whole: decoding is field extraction on every 32-bit word, and inverts assembling up to the
reserved bits. -/
def Obligations.CommandFieldsRoundTrip : Prop :=
  (∀ w : Word,
    (opcField w).toNat = w.toNat / 2 ^ 27 % 32 ∧
    (Cmd.ofWord w).len.val = w.toNat / 2 ^ 24 % 8 ∧
    (Cmd.ofWord w).opA.val = w.toNat / 2 ^ 19 % 32 ∧
    (Cmd.ofWord w).bImm = w.getLsbD 18 ∧
    (Cmd.ofWord w).opB.val = w.toNat / 2 ^ 13 % 32 ∧
    (Cmd.ofWord w).res.val = w.toNat / 2 ^ 8 % 32 ∧
    (Cmd.ofWord w).discard = w.getLsbD 7 ∧
    (Cmd.ofWord w).irq = w.getLsbD 6 ∧
    (Cmd.ofWord w).req = w.getLsbD 5) ∧
  (∀ (opc : BitVec 5) (c : Cmd),
    opcField (c.assemble opc) = opc ∧ Cmd.ofWord (c.assemble opc) = c) ∧
  (∀ w : Word, (Cmd.ofWord w).assemble (opcField w) = w &&& 0xFFFFFFE0#32)

/-- R58, whole: Assemble is the stated combination of shifts, is injective, and gives the stated
example. -/
def Obligations.AssembleIsShiftsAndOrs : Prop :=
  (∀ (opc : BitVec 5) (c : Cmd),
    c.assemble opc =
      (opc.setWidth 32 <<< 27) ||| (BitVec.ofNat 32 c.len.val <<< 24) |||
      (BitVec.ofNat 32 c.opA.val <<< 19) ||| ((BitVec.ofBool c.bImm).setWidth 32 <<< 18) |||
      (BitVec.ofNat 32 c.opB.val <<< 13) ||| (BitVec.ofNat 32 c.res.val <<< 8) |||
      ((BitVec.ofBool c.discard).setWidth 32 <<< 7) ||| ((BitVec.ofBool c.irq).setWidth 32 <<< 6) |||
      ((BitVec.ofBool c.req).setWidth 32 <<< 5)) ∧
  (∀ (o₁ o₂ : BitVec 5) (c₁ c₂ : Cmd), c₁.assemble o₁ = c₂.assemble o₂ → o₁ = o₂ ∧ c₁ = c₂) ∧
  Cmd.assemble (Opcode.id .add)
    { len := 2, opA := 3, bImm := false, opB := 4, res := 5,
      discard := false, irq := true, req := false } = 0x0A188540#32

/-- Words written out from the encodings of R57, R61, R69 and R70 decode to the instructions they
stand for, one or more of every family. -/
def Obligations.WrittenOutWordsDecode : Prop :=
  decodeTableWord 32 0x0A188540 = some (.add ⟨2, 3, false, 4, 5, false, true, false⟩) ∧
  decodeTableWord 32 0x21362600 = some (.shift ⟨1, 6, true, 17, 6, false, false, false⟩) ∧
  decodeTableWord 32 0x35516C00 = some (.div ⟨5, 10, false, 11, 12, false, false, false⟩) ∧
  decodeTableWord 32 0x5FFFE0E0 = some (.modexp ⟨7, 31, true, 31, 0, true, true, true⟩) ∧
  decodeTableWord 32 0xF8000100 = some (.longdiv 256#20) ∧
  decodeTableWord 16 0x103C = some (.submit 0#32) ∧
  decodeTableWord 16 0x0038 = some .waitIdle ∧
  decodeTableWord 16 0x0054 = some (.rdLenBits 5) ∧
  decodeTableWord 16 0x0178 = some (.rdRegSize 30) ∧
  decodeTableWord 40 0x100000028 = some (.sramWr32 0x28#32 0#32) ∧
  decodeTableWord 32 0x68000000 = none ∧
  decodeTableWord 32 0x00000000 = none

/-! ## Steps and agents -/

/-- A step is the turn of the agent whose turn it is, scheduled or, with nothing scheduled, the first
enabled of HOST, ENGINE and DEMUX; and it runs the decoded instruction: on the ENGINE's turn the
command it holds, on the HOST's turn the next access of its program (R117, R119, R73; the schedule,
the order where it is empty and the program list are the model's, log entries 1 and 2). -/
def Obligations.StepRunsTheFetchedInstruction : Prop :=
  ∀ (s : State) (i : Instr),
    (∀ t rest, s.sched = t :: rest → t.act = .engine → s.busy = true →
      decode (.command s.cur) = .ok i →
      step s = exec i { s with sched := rest, sibPend := t.sib }) ∧
    (s.sched = [] → s.hostEnabled = false → s.busy = true → decode (.command s.cur) = .ok i →
      step s = exec i s) ∧
    (∀ t rest a more op, s.sched = t :: rest → t.act = .host → s.hwait = .none →
      s.program = a :: more → routeAccess s.cfg a = .ok op → decode (.host op) = .ok i →
      step s = exec i { s with sched := rest, sibPend := t.sib, program := more }) ∧
    (∀ a more op, s.sched = [] → s.hwait = .none → s.program = a :: more →
      routeAccess s.cfg a = .ok op → decode (.host op) = .ok i →
      step s = exec i { s with program := more }) ∧
    (∀ t rest, s.sched = t :: rest →
      step s = takeTurn t.act { s with sched := rest, sibPend := t.sib }) ∧
    (s.sched = [] → s.hostEnabled = true → step s = takeTurn .host s) ∧
    (s.sched = [] → s.hostEnabled = false → s.engineEnabled = true →
      step s = takeTurn .engine s) ∧
    (s.sched = [] → s.hostEnabled = false → s.engineEnabled = false → s.demuxEnabled = true →
      step s = takeTurn (.demux none) s) ∧
    (s.sched = [] → (s.hostEnabled || s.engineEnabled || s.demuxEnabled) = true →
      step s = takeTurn s.nextAgent s)

/-- R118, whole: POP takes the head, and sets the FIFO_WM latch exactly when it starts at the
watermark; without an entry, and while a command is held, it is not enabled. That the ENGINE's turns
are scheduled is log entry 1, that a turn with nothing enabled passes log entry 14. -/
def Obligations.PopTakesTheHead : Prop :=
  ∀ (s : State) (t : Turn) (rest : List Turn), s.sched = t :: rest → t.act = .engine →
    (∀ w more, s.busy = false → s.fifo = w :: more →
      step s = .next { s with
        sched := rest, sibPend := t.sib, fifo := more, cur := w, busy := true,
        intStat := if s.fifo.length = s.cfg.fifoWm then s.intStat ||| 1#6 else s.intStat }) ∧
    (s.busy = false → s.fifo = [] → step s = .next { s with sched := rest, sibPend := t.sib }) ∧
    (s.busy = true → ∀ s', step s = .next s' → s'.fifo = s.fifo ∧ s'.cur = s.cur)

/-- R137: the ENGINE that holds an unassigned opcode never retires it, whatever step is taken: `busy`
stays, `count` does not fall, a wait for idleness stays open, and so does a wait for room once the
FIFO is full; the ENGINE's own turn does nothing (that such a turn passes is log entry 14), and the
state is never taken for the end of the run (the answer `runEnded` is log entry 15). -/
def Obligations.UnassignedOpcodeHangsTheEngine : Prop :=
  ∀ s : State, s.busy = true → ((opcField s.cur).toNat = 0 ∨ 0x0D ≤ (opcField s.cur).toNat) →
    s.engineEnabled = false ∧ engineTurn s = .next s ∧ step s ≠ .refused .runEnded ∧
    ∀ s', step s = .next s' →
      s'.busy = true ∧ s'.cur = s.cur ∧ s.fifo.length ≤ s'.fifo.length ∧
      ((s.hwait = .idleCheck ∨ s.hwait = .idleArmed) →
        (s'.hwait = .idleCheck ∨ s'.hwait = .idleArmed)) ∧
      ((s.hwait = .roomCheck ∨ s.hwait = .roomArmed) → s.cfg.fifoDepth ≤ s.fifo.length →
        (s'.hwait = .roomCheck ∨ s'.hwait = .roomArmed) ∧ s'.fifo = s.fifo)

/-- R117: a turn of the ENGINE never pushes and never writes the mask, the signals, the tables, or
anything of the HOST's or the DEMUX's. -/
def Obligations.EngineLeavesTheRestAlone : Prop :=
  ∀ s s' : State, s.nextAgent = .engine → step s = .next s' →
    (s'.fifo = s.fifo ∨ ∃ w, s.fifo = w :: s'.fifo) ∧
    s'.intMask = s.intMask ∧ s'.sigFifo = s.sigFifo ∧ s'.sigDone = s.sigDone ∧
    s'.lenTab = s.lenTab ∧ s'.regTab = s.regTab ∧ s'.live = s.live ∧ s'.lenRsp = s.lenRsp ∧
    s'.regRsp = s.regRsp ∧ s'.demux = s.demux ∧ s'.hwait = s.hwait ∧ s'.held = s.held ∧
    s'.program = s.program ∧ s'.readData = s.readData

/-- R51, R56: in one step the FIFO keeps every queued word as it is: it loses its head, or gains one
word at the tail, or stays. -/
def Obligations.QueuedWordsAreNeverChanged : Prop :=
  ∀ s s' : State, step s = .next s' →
    s'.fifo = s.fifo ∨ (∃ w, s.fifo = w :: s'.fifo) ∨ ∃ w, s'.fifo = s.fifo ++ [w]

/-- R180: the run ends exactly when nothing is scheduled, the HOST has nothing left and the block is
idle; it is stuck exactly when nothing is scheduled or enabled otherwise (the empty schedule and the
two answers are the model's, log entries 1, 14, 15). -/
def Obligations.RunEndsOrHangsOnlyWithNothingEnabled : Prop :=
  ∀ s : State,
    (step s = .refused .runEnded ↔
      s.sched = [] ∧ s.program = [] ∧ s.fifo = [] ∧ s.busy = false ∧ s.hwait = .none ∧
      s.demux = .idle ∧ s.irqAlu = false) ∧
    (step s = .fault .stuck ↔
      s.sched = [] ∧ s.hostEnabled = false ∧ s.engineEnabled = false ∧ s.demuxEnabled = false ∧
      s.ended = false)

/-- R24, R138: two states that differ at most in the flags and in the word the last read returned take
the same step, and the results differ at most in these again: every step keeps the relation, so no
run can tell the two apart but through what its reads return (the field for that word is the model's,
log entry 6). -/
def Obligations.FlagsAreSeenOnlyThroughReads : Prop :=
  ∀ (s : State) (c z : Bool) (v : Word),
    (∀ s', step s = .next s' → ∃ c' z' v',
      step { s with carry := c, zero := z, readData := v } =
        .next { s' with carry := c', zero := z', readData := v' }) ∧
    (∀ f, step s = .fault f →
      step { s with carry := c, zero := z, readData := v } = .fault f) ∧
    (∀ r, step s = .refused r →
      step { s with carry := c, zero := z, readData := v } = .refused r)

/-! ## The commands -/

/-- R124: ADD over Lb bits, with the carry out, the zero flag, no other flag or register, and DONE
when the command asked for it. -/
def Obligations.AddRetires : Prop :=
  ∀ (s : State) (c : Cmd), s.ready .add c →
    exec (.add c) s = .next { s with
      mem     := s.memWithResult c ((s.valA c + s.valB c) % 2 ^ s.cmdLb c)
      carry   := decide (2 ^ s.cmdLb c ≤ s.valA c + s.valB c)
      zero    := decide ((s.valA c + s.valB c) % 2 ^ s.cmdLb c = 0)
      busy    := false
      intStat := s.intStatDone c }

/-- R125: SUB over Lb bits, with the borrow in carry. -/
def Obligations.SubRetires : Prop :=
  ∀ (s : State) (c : Cmd), s.ready .sub c →
    exec (.sub c) s = .next { s with
      mem     := s.memWithResult c
        ((if s.valB c ≤ s.valA c then s.valA c - s.valB c
          else 2 ^ s.cmdLb c + s.valA c - s.valB c) % 2 ^ s.cmdLb c)
      carry   := decide (s.valA c < s.valB c)
      zero    := decide ((if s.valB c ≤ s.valA c then s.valA c - s.valB c
          else 2 ^ s.cmdLb c + s.valA c - s.valB c) % 2 ^ s.cmdLb c = 0)
      busy    := false
      intStat := s.intStatDone c }

/-- R126: CMP, of class FLOOR and with its match and mask, writes the two flags and no register,
whatever its RES and DISCARD fields. -/
def Obligations.CmpRetires : Prop :=
  (∀ w : Word, w &&& 0xF8000000#32 = 0x18000000#32 →
    decode (.command w) = .ok (.cmp (Cmd.ofWord w))) ∧ classOf 0x03#5 = some .floor ∧
  ∀ (s : State) (c : Cmd), s.ready .cmp c →
    exec (.cmp c) s = .next { s with
      carry   := decide (s.valA c < s.valB c)
      zero    := decide (s.valA c = s.valB c)
      busy    := false
      intStat := s.intStatDone c }

/-- R127, R128, R131, R132: SHIFT, LOGIC, MODADD and MODSUB retire with the parameter's result, carry
and zero flag, functions of the arguments of R120 alone (log entry 9). -/
def Obligations.ParameterCommandsRetire : Prop :=
  ∀ (s : State) (c : Cmd) (op : Opcode), op = .shift ∨ op = .logic ∨ op = .modadd ∨ op = .modsub →
    s.ready op c →
    exec (op.instr c) s = .next { s with
      mem     := s.memWithResult c (aluResult (s.aluArgs op c) % 2 ^ s.cmdLb c)
      carry   := aluCarry (s.aluArgs op c)
      zero    := aluZero (s.aluArgs op c)
      busy    := false
      intStat := s.intStatDone c }

/-- R129, R130, R133, R134, R135, R122: without a fault event, DIV, REDUCE, MODMUL, MODEXP and MODINV
retire with the parameter's result and flags, and T0 and T1 hold any values, also where the result
was directed at them (flags: log entry 9; `draws`: log entry 7). -/
def Obligations.ClobberingCommandsRetire : Prop :=
  ∀ (s : State) (c : Cmd) (op : Opcode),
    (op = .reduce ∨ (op = .div ∧ s.valB c ≠ 0) ∨
      ((op = .modmul ∨ op = .modexp) ∧ aluMulRed (s.aluArgs op c) = false) ∨
      (op = .modinv ∧ s.regBytes nId (s.cmdLb c) % 2 = 1)) →
    s.ready op c →
    ∃ v0 v1, exec (op.instr c) s = .next { s with
      mem     := s.memWithScratch c
        (s.memWithResult c (aluResult (s.aluArgs op c) % 2 ^ s.cmdLb c)) v0 v1
      carry   := aluCarry (s.aluArgs op c)
      zero    := aluZero (s.aluArgs op c)
      busy    := false
      intStat := s.intStatDone c
      draws   := s.draws + 2 }

/-- R140, R143, with the conditions of R129, R133, R134, R135: a command that raises DIV0, NOINV or
MULRED still retires: latch and log bit are set, `busy` falls, DONE is set if it asked, and result,
scratch and both flags hold some values. -/
def Obligations.FaultingCommandsStillRetire : Prop :=
  ∀ (s : State) (c : Cmd) (op : Opcode) (k : Cause),
    ((op = .div ∧ k = .div0 ∧ s.valB c = 0) ∨
      (op = .modinv ∧ k = .noInv ∧ s.regBytes nId (s.cmdLb c) % 2 = 0) ∨
      ((op = .modmul ∨ op = .modexp) ∧ k = .mulRed ∧ aluMulRed (s.aluArgs op c) = true)) →
    s.ready op c →
    ∃ r cr z v0 v1, exec (op.instr c) s = .next { s with
      mem      := s.memWithScratch c (s.memWithResult c r) v0 v1
      carry    := cr
      zero     := z
      busy     := false
      intStat  := if c.irq then s.intStat ||| k.bit ||| Cause.bit .done else s.intStat ||| k.bit
      faultLog := s.faultLog ||| k.bit
      draws    := s.draws + 4 }

/-- R121: RETIRE's checks and their order, for every command: the slot, then each register it names in
order, the overwritten scratch of R122 last, and inside R122's sets N before NP and T0 before T1 (the
scratch's place and the order inside the sets are the model's, log entry 25); the first that fails
decides the model fault, and with none failing the command retires. -/
def Obligations.RetireChecksInOrder : Prop :=
  ∀ (s : State) (c : Cmd) (op : Opcode),
    ((s.slot c.len).occ = false → exec (op.instr c) s = .fault .unconfiguredSlot) ∧
    ((s.slot c.len).occ = true → ∀ pre i post, checkedRegs op c = pre ++ i :: post →
      (∀ j ∈ pre, s.fits j (s.cmdLb c)) →
      ((s.reg i).occ = false → exec (op.instr c) s = .fault .unboundRegister) ∧
      ((s.reg i).occ = true → 8 * (s.reg i).size.toNat < s.cmdLb c →
        exec (op.instr c) s = .fault .registerTooSmall)) ∧
    (s.ready op c → ∃ t, exec (op.instr c) s = .next t)

/-- The frame of every command (R117, R119, R122, R49): nothing but the arena, the flags, `busy`, the
latches and the log changes; of the arena only the low Lb / 8 bytes of the result register, when it
is written, and of the registers the opcode overwrites; the FIFO_WM and FIFO_OVF latches and log
bits stay, and DONE is set exactly when the command asked for it. -/
def Obligations.CommandFrame : Prop :=
  ∀ (s t : State) (c : Cmd) (op : Opcode), exec (op.instr c) s = .next t →
    t.fifo = s.fifo ∧ t.cur = s.cur ∧ t.lenTab = s.lenTab ∧ t.regTab = s.regTab ∧
    t.intMask = s.intMask ∧ t.lenRsp = s.lenRsp ∧ t.regRsp = s.regRsp ∧ t.sigFifo = s.sigFifo ∧
    t.sigDone = s.sigDone ∧ t.demux = s.demux ∧ t.hwait = s.hwait ∧ t.live = s.live ∧
    t.cfg = s.cfg ∧ t.held = s.held ∧ t.readData = s.readData ∧ t.program = s.program ∧
    t.sched = s.sched ∧ t.sibPend = s.sibPend ∧ t.busy = false ∧
    t.intStat.getLsbD 0 = s.intStat.getLsbD 0 ∧
    t.intStat.getLsbD 1 = (s.intStat.getLsbD 1 || c.irq) ∧
    t.intStat.getLsbD 2 = s.intStat.getLsbD 2 ∧
    t.faultLog.extractLsb' 0 3 = s.faultLog.extractLsb' 0 3 ∧
    (op ≠ .div → t.faultLog.getLsbD 3 = s.faultLog.getLsbD 3 ∧
      t.intStat.getLsbD 3 = s.intStat.getLsbD 3) ∧
    (op ≠ .modinv → t.faultLog.getLsbD 4 = s.faultLog.getLsbD 4 ∧
      t.intStat.getLsbD 4 = s.intStat.getLsbD 4) ∧
    (op ≠ .modmul → op ≠ .modexp → t.faultLog.getLsbD 5 = s.faultLog.getLsbD 5 ∧
      t.intStat.getLsbD 5 = s.intStat.getLsbD 5) ∧
    ∀ a, ¬ s.cmdStores op c a → t.mem.readByte a = s.mem.readByte a

/-- R51, R119: the next command reads the sum or difference a command wrote, also where the result
register was an operand. -/
def Obligations.WrittenResultIsReadBack : Prop :=
  ∀ (s : State) (c : Cmd), s.mem.wf → c.discard = false → s.cmdLb c % 8 = 0 →
    (s.ready .add c → ∃ t, exec (.add c) s = .next t ∧
      t.regVal c.res (s.cmdLb c) = .ok ((s.valA c + s.valB c) % 2 ^ s.cmdLb c)) ∧
    (s.ready .sub c → ∃ t, exec (.sub c) s = .next t ∧
      t.regVal c.res (s.cmdLb c) =
        .ok ((if s.valB c ≤ s.valA c then s.valA c - s.valB c
          else 2 ^ s.cmdLb c + s.valA c - s.valB c) % 2 ^ s.cmdLb c))

/-- R124, R125 and the source's property S3: without a borrow, adding B to the difference gives A;
with a borrow, inverting the difference over Lb bits and adding 1 gives B − A; and with the slot
LEN_REQ gives ADD for b bits, operands below 2^b have a sum that fits and carry 0. -/
def Obligations.AdditiveArithmeticLaws : Prop :=
  ∀ x : AluArgs,
    (x.a < 2 ^ x.lb → x.b < 2 ^ x.lb → x.b ≤ x.a → (aluSub x).carry = false ∧
      (aluAdd { x with a := (aluSub x).result }).result = x.a) ∧
    (x.b < 2 ^ x.lb → x.a < x.b → (aluSub x).carry = true ∧
      (2 ^ x.lb - 1 - (aluSub x).result + 1) % 2 ^ x.lb = x.b - x.a) ∧
    (∀ b, x.lb = lenFull .addc b → x.a < 2 ^ b → x.b < 2 ^ b →
      (aluAdd x).carry = false ∧ (aluAdd x).result = x.a + x.b)

/-! ## The arena -/

/-- R42: MemRead is the little-endian sum, MemWrite sets exactly the bytes of its value, what was
written is read back, and the 32-bit host word at region offset 4j holds operand bits 32j+31 to
32j, of every arena in canonical form. -/
def Obligations.ArenaIsLittleEndian : Prop :=
  ∀ (m : Memory) (a n v : Nat), m.wf →
    m.read a n = ∑ k ∈ Finset.range n, (m.readByte (a + k)).toNat * 256 ^ k ∧
    (∀ k, k < n → ((m.write a n v).readByte (a + k)).toNat = v / 256 ^ k % 256) ∧
    (∀ b, b < a ∨ a + n ≤ b → (m.write a n v).readByte b = m.readByte b) ∧
    (m.write a n v).read a n = v % 256 ^ n ∧
    (∀ b k, b + k ≤ a ∨ a + n ≤ b → (m.write a n v).read b k = m.read b k) ∧
    (∀ j, 4 * j + 4 ≤ n → m.read (a + 4 * j) 4 = m.read a n / 2 ^ (32 * j) % 2 ^ 32)

/-- R43, R44: on an idle block SRAM_RD32 returns the four bytes at an aligned offset inside the arena
and SRAM_WR32 stores them, every byte outside the four keeping its value; a misaligned offset, or
one whose four bytes do not lie inside the arena, is refused, also while the block is not idle (that
the offset is tested before idleness is log entry 25). -/
def Obligations.HostArenaAccesses : Prop :=
  ∀ (s : State) (a v : Word),
    (a.toNat % 4 = 0 → a.toNat + 4 ≤ s.cfg.sramSize → s.isIdle = true →
      (∃ d : Word, exec (.sramRd32 a) s = .next { s with readData := d } ∧
        d.toNat = (s.mem.readByte a.toNat).toNat + 256 * (s.mem.readByte (a.toNat + 1)).toNat +
          65536 * (s.mem.readByte (a.toNat + 2)).toNat +
          16777216 * (s.mem.readByte (a.toNat + 3)).toNat) ∧
      (∃ m, exec (.sramWr32 a v) s = .next { s with mem := m } ∧
        (s.mem.wf → ∀ k, k < 4 → m.readByte (a.toNat + k) = v.extractLsb' (8 * k) 8) ∧
        (∀ b, b < a.toNat ∨ a.toNat + 4 ≤ b → m.readByte b = s.mem.readByte b))) ∧
    (a.toNat % 4 ≠ 0 → exec (.sramRd32 a) s = .refused .misalignedAccess ∧
      exec (.sramWr32 a v) s = .refused .misalignedAccess) ∧
    (a.toNat % 4 = 0 → s.cfg.sramSize < a.toNat + 4 →
      exec (.sramRd32 a) s = .refused .outsideArena ∧
      exec (.sramWr32 a v) s = .refused .outsideArena)

/-- R45, R116: a SRAM_RD32, a SRAM_WR32 and the zero-fills of REG_ALLOC, REG_BIND and REG_FREE are the
model fault while the block is not idle; where SramStore finds no region there is no zero-fill and
the answer is NO_SRAM. -/
def Obligations.ArenaAccessNeedsIdleness : Prop :=
  ∀ s : State, (s.fifo ≠ [] ∨ s.busy = true) →
    (∀ a v : Word, a.toNat % 4 = 0 → a.toNat + 4 ≤ s.cfg.sramSize →
      exec (.sramRd32 a) s = .fault .sramAccessWhileBusy ∧
      exec (.sramWr32 a v) s = .fault .sramAccessWhileBusy) ∧
    (∀ (k : SlotId) (i : RegId), (s.slot k).occ = true → isReserved i = false →
      (s.reg i).occ = false →
      (s.sramAlloc (s.slotBytes k) = none ∧
        exec (.regAlloc k) s = .next { s with regRsp := 0x40000000#32, draws := s.draws + 1 }) ∨
      (s.sramAlloc (s.slotBytes k) ≠ none ∧
        exec (.regAlloc k) s = .fault .sramAccessWhileBusy)) ∧
    (∀ (k : SlotId) (i : RegId), (s.slot k).occ = true → isReserved i = true →
      (s.reg i).occ = false →
      (s.sramAlloc (s.slotBytes k) = none ∧
        exec (.regBind i k) s = .next { s with regRsp := 0x40000000#32, draws := s.draws + 1 }) ∨
      (s.sramAlloc (s.slotBytes k) ≠ none ∧
        exec (.regBind i k) s = .fault .sramAccessWhileBusy)) ∧
    (∀ i : RegId, (s.reg i).occ = true → exec (.regFree i) s = .fault .sramAccessWhileBusy)

/-! ## Submission and waits -/

/-- R74, whole: PUSH appends the word with its reserved bits cleared, or drops it and raises FIFO_OVF
when the FIFO is full. -/
def Obligations.PushAppendsOrOverflows : Prop :=
  (∀ w : Word, encode (.push w) = .host (.bus 0b1000000000000#13 w)) ∧
  ∀ (s : State) (w : Word),
    (s.fifo.length < s.cfg.fifoDepth →
      exec (.push w) s = .next { s with fifo := s.fifo ++ [w &&& 0xFFFFFFE0#32] }) ∧
    (s.cfg.fifoDepth ≤ s.fifo.length →
      exec (.push w) s = .next { s with
        intStat := s.intStat ||| 0b000100#6, faultLog := s.faultLog ||| 0b000100#6 })

/-- R75 to R77: with room, SUBMIT and WAIT_ROOM complete at once, SUBMIT with its word in the FIFO,
WAIT_ROOM with STATUS, and under EVENT the FIFO_WM cause is left masked, while POLL writes no mask;
without room both leave the HOST blocked in ROOM_CHECK and change nothing else (that the opening step
itself completes is the model's reading of "at once", log entry 12). -/
def Obligations.RoomWaitsCompleteAtOnceOrBlock : Prop :=
  ∀ (s : State) (w : Word) (m : BitVec 6),
    m = (if s.cfg.policy = .event then s.intMask ||| 1#6 else s.intMask) →
    (s.fifo.length < s.cfg.fifoDepth →
      exec (.submit w) s = .next { s with
        fifo := s.fifo ++ [w &&& 0xFFFFFFE0#32], intMask := m, hwait := .none, held := none } ∧
      exec .waitRoom s = .next { s with
        intMask := m, hwait := .none, held := none, readData := s.status }) ∧
    (s.cfg.fifoDepth ≤ s.fifo.length →
      exec (.submit w) s = .next { s with hwait := .roomCheck, held := some w } ∧
      exec .waitRoom s = .next { s with hwait := .roomCheck, held := none })

/-- R78, R79: on an idle block WAIT_IDLE completes at once with STATUS, and under EVENT the DONE cause
is left masked, while POLL writes no mask; while the block is not idle it leaves the HOST blocked in
IDLE_CHECK and changes nothing else (log entry 12). -/
def Obligations.IdleWaitCompletesAtOnceOrBlocks : Prop :=
  ∀ (s : State) (m : BitVec 6),
    m = (if s.cfg.policy = .event then s.intMask ||| 2#6 else s.intMask) →
    (s.fifo = [] → s.busy = false →
      exec .waitIdle s = .next { s with intMask := m, hwait := .none, readData := s.status }) ∧
    (s.fifo ≠ [] ∨ s.busy = true → exec .waitIdle s = .next { s with hwait := .idleCheck })

/-- R75, R76, R78: the HOST's turn in an open wait under POLL: the completing step where the condition
holds, nothing where it does not. -/
def Obligations.PollWaitSteps : Prop :=
  ∀ (s u : State) (t : Turn) (rest : List Turn), s.sched = t :: rest → t.act = .host →
    s.cfg.policy = .poll → u = { s with sched := rest, sibPend := t.sib } →
    (s.hwait = .roomCheck → s.fifo.length < s.cfg.fifoDepth →
      (s.held = none → step s = .next { u with hwait := .none, readData := s.status }) ∧
      (∀ w, s.held = some w → step s = .next { u with
        hwait := .none, held := none, fifo := s.fifo ++ [w &&& 0xFFFFFFE0#32] })) ∧
    (s.hwait = .roomCheck → s.cfg.fifoDepth ≤ s.fifo.length → step s = .next u) ∧
    (s.hwait = .idleCheck → s.fifo = [] → s.busy = false →
      step s = .next { u with hwait := .none, readData := s.status }) ∧
    (s.hwait = .idleCheck → s.fifo ≠ [] ∨ s.busy = true → step s = .next u)

/-- R75, R77, R79: the HOST's turn in an open wait under EVENT: CHECK completes or arms, WAKE needs
the signal and a demultiplexer at IDLE. -/
def Obligations.EventWaitSteps : Prop :=
  ∀ (s u : State) (t : Turn) (rest : List Turn), s.sched = t :: rest → t.act = .host →
    s.cfg.policy = .event → u = { s with sched := rest, sibPend := t.sib } →
    (s.hwait = .roomCheck → s.fifo.length < s.cfg.fifoDepth →
      (s.held = none → step s = .next { u with
        hwait := .none, intMask := s.intMask ||| 1#6, readData := s.status }) ∧
      (∀ w, s.held = some w → step s = .next { u with
        hwait := .none, held := none, intMask := s.intMask ||| 1#6,
        fifo := s.fifo ++ [w &&& 0xFFFFFFE0#32] })) ∧
    (s.hwait = .roomCheck → s.cfg.fifoDepth ≤ s.fifo.length →
      step s = .next { u with
        hwait := .roomArmed, sigFifo := false, intMask := s.intMask &&& 0b000010#6 }) ∧
    (s.hwait = .roomArmed →
      step s = .next (if s.sigFifo = true ∧ s.demux = .idle
        then { u with hwait := .roomCheck, sigFifo := false } else u)) ∧
    (s.hwait = .idleCheck → s.fifo = [] → s.busy = false →
      step s = .next { u with
        hwait := .none, intMask := s.intMask ||| 2#6, readData := s.status }) ∧
    (s.hwait = .idleCheck → s.fifo ≠ [] ∨ s.busy = true →
      step s = .next { u with
        hwait := .idleArmed, sigDone := false, intMask := s.intMask &&& 0b000001#6 }) ∧
    (s.hwait = .idleArmed →
      step s = .next (if s.sigDone = true ∧ s.demux = .idle
        then { u with hwait := .idleCheck, sigDone := false } else u))

/-- R36, R73, R76 to R79, R87: whatever step is taken, an open wait closes only in a state where its
condition holds; and while it is open no access of the HOST's program is issued and no request
reaches the allocators. -/
def Obligations.OpenWaitHoldsTheHost : Prop :=
  ∀ s s' : State, step s = .next s' → s.hwait ≠ .none →
    (s'.hwait = .none →
      ((s.hwait = .roomCheck ∨ s.hwait = .roomArmed) → s.fifo.length < s.cfg.fifoDepth) ∧
      ((s.hwait = .idleCheck ∨ s.hwait = .idleArmed) → s.fifo = [] ∧ s.busy = false)) ∧
    s'.program = s.program ∧ s'.lenTab = s.lenTab ∧ s'.regTab = s.regTab ∧ s'.live = s.live ∧
    s'.lenRsp = s.lenRsp ∧ s'.regRsp = s.regRsp

/-- R86: FIFO_OVF is raised only by a raw PUSH that the HOST issues, in its own step, without room; so
no SUBMIT and no other agent raises it. -/
def Obligations.OverflowOnlyFromRawPush : Prop :=
  ∀ s s' : State, step s = .next s' →
    (s.faultLog.getLsbD 2 = false ∧ s'.faultLog.getLsbD 2 = true ∨
      s.intStat.getLsbD 2 = false ∧ s'.intStat.getLsbD 2 = true) →
    s.nextAgent = .host ∧ (∃ w, s.hostNext (.push w)) ∧ s.cfg.fifoDepth ≤ s.fifo.length

/-! ## Status and interrupts -/

/-- R26, whole: the fields of STATUS, and its value after reset. -/
def Obligations.StatusFields : Prop :=
  (∀ s : State, s.fifo.length ≤ 255 →
    (s.status.extractLsb' 0 8).toNat = s.fifo.length ∧
    (s.status.getLsbD 8 = true ↔ s.fifo.length = s.cfg.fifoDepth) ∧
    (s.status.getLsbD 9 = true ↔ s.fifo.length = 0) ∧
    (s.status.getLsbD 10 = true ↔ s.fifo.length < s.cfg.fifoWm) ∧
    s.status.getLsbD 11 = s.busy ∧
    (s.status.getLsbD 12 = true ↔ s.fifo.length = 0 ∧ s.busy = false) ∧
    s.status.extractLsb' 13 3 = 0#3 ∧ s.status.getLsbD 16 = s.carry ∧
    s.status.getLsbD 17 = s.zero ∧ s.status.extractLsb' 18 14 = 0#14 ∧
    exec .rdStatus s = .next { s with readData := s.status }) ∧
  ∀ (p : Params) (m : Memory), p.legal → (State.resetWith p m).status = 0x00001600#32

/-- R80, R81, R83, R84, R85, R103, R113: the reads return their register or view, as a number, and
change nothing of the block. -/
def Obligations.ReadsReturnTheirRegister : Prop :=
  ∀ (s : State) (k : SlotId) (r : RegId),
    (∃ v, exec .rdStatus s = .next { s with readData := v } ∧ v = s.status) ∧
    (∃ v, exec .rdIntStat s = .next { s with readData := v } ∧ v.toNat = s.intStat.toNat) ∧
    (∃ v, exec .rdIntMask s = .next { s with readData := v } ∧ v.toNat = s.intMask.toNat) ∧
    (∃ v, exec .rdFaultLog s = .next { s with readData := v } ∧ v.toNat = s.faultLog.toNat) ∧
    (∃ v, exec .rdTopPend s = .next { s with readData := v } ∧
      v.toNat = (if s.irqAlu then 1 else 0) + 2 * s.sibPend.toNat) ∧
    (∃ v, exec .rdLenRsp s = .next { s with readData := v } ∧ v = s.lenRsp) ∧
    (∃ v, exec .rdRegRsp s = .next { s with readData := v } ∧ v = s.regRsp) ∧
    (∃ v, exec (.rdLenBits k) s = .next { s with readData := v } ∧
      v.toNat = (if (s.slot k).occ then 2 ^ 31 else 0) + (s.slot k).bits.toNat) ∧
    (∃ v, exec (.rdLenFull k) s = .next { s with readData := v } ∧
      v.toNat = (s.slot k).full.toNat) ∧
    (∃ v, exec (.rdRegAddr r) s = .next { s with readData := v } ∧ v = (s.reg r).addr) ∧
    (∃ v, exec (.rdRegSize r) s = .next { s with readData := v } ∧
      v.toNat = (if (s.reg r).occ then 2 ^ 31 else 0) + (s.reg r).size.toNat % 2 ^ 31)

/-- R82, R83: WR_INT_STAT clears exactly the latches written 1, WR_INT_MASK replaces the six mask
bits; bits 31:6 of the data word are ignored, the log is not reached. -/
def Obligations.InterruptRegisterWrites : Prop :=
  ∀ (s : State) (d : Word),
    decode (.host (.bus 0b1000000001000#13 d)) = .ok (.wrIntStat (d.extractLsb' 0 6)) ∧
    decode (.host (.bus 0b1000000001100#13 d)) = .ok (.wrIntMask (d.extractLsb' 0 6)) ∧
    (∃ x, exec (.wrIntStat (d.extractLsb' 0 6)) s = .next { s with intStat := x } ∧
      ∀ k, k < 6 → x.getLsbD k = (s.intStat.getLsbD k && !d.getLsbD k)) ∧
    exec (.wrIntMask (d.extractLsb' 0 6)) s = .next { s with intMask := d.extractLsb' 0 6 }

/-- R90, whole: reads of write-only registers and of unmapped offsets return 0, writes to read-only
registers and to unmapped offsets are ignored. -/
def Obligations.UnansweredAccesses : Prop :=
  ∀ (s : State) (t : Turn) (rest : List Turn) (more : List HostAccess) (p : BitVec 13) (d : Word),
    s.sched = t :: rest → t.act = .host → s.hwait = .none →
    s.program = .coded (.bus p d) :: more →
    (p.toNat ∈ [0x000, 0x018, 0x020, 0x024, 0x028, 0x02C, 0x03C] ∨
        (p.toNat % 4 = 0 ∧ 0x180 ≤ p.toNat ∧ p.toNat ≤ 0x1FC) →
      step s = .next { s with
        sched := rest, sibPend := t.sib, program := more, readData := 0#32 }) ∧
    (p.toNat ∈ [0x1004, 0x1010, 0x1014, 0x101C, 0x1030, 0x1034, 0x1038] ∨
        (p.toNat % 4 = 0 ∧ 0x1040 ≤ p.toNat ∧ p.toNat ≤ 0x11FC) →
      step s = .next { s with sched := rest, sibPend := t.sib, program := more })

/-- R145: irq_alu is 1 exactly when some cause has its latch set and its mask bit 0; a masked cause is
never pending. Where a turn names no cause, the pending cause of least code is chosen: R149's default
for a deterministic simulator (log entry 20). -/
def Obligations.PendingNeedsLatchAndUnmasked : Prop :=
  ∀ s : State,
    (s.irqAlu = true ↔
      ∃ c : Cause, s.intStat.getLsbD c.code = true ∧ s.intMask.getLsbD c.code = false) ∧
    (∀ c : Cause, s.pending c = true ↔
      s.intStat.getLsbD c.code = true ∧ s.intMask.getLsbD c.code = false) ∧
    (∀ c : Cause, s.choose none = some c →
      s.pending c = true ∧ ∀ c', s.pending c' = true → c.code ≤ c'.code) ∧
    (s.irqAlu = true → ∃ c, s.choose none = some c)

/-- R147, R148, R150, R151, R157: the DEMUX's turn: under EVENT MASK of the cause that is chosen, RELEASE, CLEAR, and
nothing where no cause is chosen; under POLL nothing at all; a sibling's turn changes nothing. Turns
and the cause they name are log entries 1 and 20, that a turn with nothing to serve passes log entry
14, the reading of POLL log entry 31. -/
def Obligations.DemuxTurns : Prop :=
  ∀ (s u : State) (t : Turn) (rest : List Turn), s.sched = t :: rest →
    u = { s with sched := rest, sibPend := t.sib } →
    (t.act = .sibling → step s = .next u) ∧
    (∀ pick, t.act = .demux pick → s.cfg.policy = .poll → step s = .next u) ∧
    (∀ pick, t.act = .demux pick → s.cfg.policy = .event →
      (s.demux = .idle → ∀ c, s.choose pick = some c →
        step s = .next { u with intMask := s.intMask ||| c.bit, demux := .masked c }) ∧
      (s.demux = .idle → s.choose pick = none → step s = .next u) ∧
      (∀ c, s.demux = .masked c → step s = .next { u with
        sigFifo := s.sigFifo || decide (c ≠ .done)
        sigDone := s.sigDone || decide (c ≠ .fifoWm)
        demux   := .released c }) ∧
      (∀ c, s.demux = .released c → step s = .next { u with
        intStat := s.intStat &&& ~~~c.bit, demux := .idle }))

/-- R148, R150, R151, R156: under EVENT three turns of the DEMUX serve one pending cause: it ends masked and
cleared, its signals released, the log and the other causes' latches and masks as they were, and the
DEMUX at IDLE. -/
def Obligations.DemuxPassServesOneCause : Prop :=
  ∀ (s : State) (c : Cause) (b0 b1 b2 : BitVec 2) (p1 p2 : Option Cause),
    s.cfg.policy = .event → s.demux = .idle → s.pending c = true →
    s.sched = [⟨.demux (some c), b0⟩, ⟨.demux p1, b1⟩, ⟨.demux p2, b2⟩] →
    Host.Core.run Sys2Proof.core 3 s = .next { s with
      sched   := []
      sibPend := b2
      intMask := s.intMask ||| c.bit
      intStat := s.intStat &&& ~~~c.bit
      sigFifo := s.sigFifo || decide (c ≠ .done)
      sigDone := s.sigDone || decide (c ≠ .fifoWm) }

/-- R29, R143: no step clears a bit of FAULT_LOG, and a step that sets one sets the same latch of
INT_STAT. -/
def Obligations.FaultLogOnlyGrows : Prop :=
  ∀ s s' : State, step s = .next s' → ∀ k,
    (s.faultLog.getLsbD k = true → s'.faultLog.getLsbD k = true) ∧
    (s.faultLog.getLsbD k = false → s'.faultLog.getLsbD k = true → s'.intStat.getLsbD k = true)

/-- R144: the FIFO_WM latch is set by a POP that starts at the watermark and by nothing else, the DONE
latch by the RETIRE of a command whose IRQ bit is 1 and by nothing else. -/
def Obligations.BenignLatchesHaveOneCause : Prop :=
  ∀ s s' : State, step s = .next s' →
    (s.intStat.getLsbD 0 = false → s'.intStat.getLsbD 0 = true →
      s.nextAgent = .engine ∧ s.busy = false ∧ s.fifo.length = s.cfg.fifoWm ∧
      s'.fifo.length + 1 = s.fifo.length) ∧
    (s.intStat.getLsbD 1 = false → s'.intStat.getLsbD 1 = true →
      s.nextAgent = .engine ∧ s.busy = true ∧ s'.busy = false ∧ (Cmd.ofWord s.cur).irq = true)

/-- R83, R157: under POLL no step changes the DEMUX's state or the signals, none changes the mask but
the HOST's own write of INT_MASK, and none clears a latch but the HOST's own write of INT_STAT; so with every cause masked irq_alu stays 0 (the reading of POLL is log entry 31). -/
def Obligations.PollingBypassesInterrupts : Prop :=
  ∀ s s' : State, step s = .next s' → s.cfg.policy = .poll →
    s'.demux = s.demux ∧ s'.sigFifo = s.sigFifo ∧ s'.sigDone = s.sigDone ∧
    (s'.intMask = s.intMask ∨
      ∃ v, s.nextAgent = .host ∧ s.hostNext (.wrIntMask v) ∧ s'.intMask = v) ∧
    (∀ k, s.intStat.getLsbD k = true → s'.intStat.getLsbD k = true ∨
      ∃ v, s.nextAgent = .host ∧ s.hostNext (.wrIntStat v) ∧ v.getLsbD k = true) ∧
    (s.intMask = 0x3F#6 → (¬ ∃ v, s.nextAgent = .host ∧ s.hostNext (.wrIntMask v)) →
      s'.intMask = 0x3F#6 ∧ s'.irqAlu = false)

/-! ## The length-slot allocator -/

/-- R96, R97: a request whose pair an occupied slot holds is answered with that slot and changes
nothing else, by LEN_REQ and by LONGDIV alike. -/
def Obligations.LenRequestReusesTheMatch : Prop :=
  ∀ (s : State) (i : Instr) (cls : LenClass) (b : Nat) (k : SlotId),
    lenRequestOf i = some (cls, b) → s.lenTabOk → (s.slot k).occ = true →
    (s.slot k).bits.toNat = lenBits cls b → (s.slot k).full.toNat = lenFull cls b →
    ∃ r, exec i s = .next { s with lenRsp := r } ∧
      r.toNat = k.val * 2 ^ 27 + lenFull cls b / 32

/-- R96, R98: a request that no occupied slot matches claims the free slot of least id. -/
def Obligations.LenRequestClaimsTheLeastFreeSlot : Prop :=
  ∀ (s : State) (i : Instr) (cls : LenClass) (b : Nat) (k : SlotId),
    lenRequestOf i = some (cls, b) →
    (∀ j : SlotId, (s.slot j).occ = true →
      ¬ ((s.slot j).bits.toNat = lenBits cls b ∧ (s.slot j).full.toNat = lenFull cls b)) →
    (s.slot k).occ = false → (∀ j : SlotId, j < k → (s.slot j).occ = true) →
    ∃ r e, exec i s = .next { s with lenTab := s.lenTab.set k.val e k.isLt, lenRsp := r } ∧
      r.toNat = k.val * 2 ^ 27 + lenFull cls b / 32 ∧
      e.occ = true ∧ e.bits.toNat = lenBits cls b ∧ e.full.toNat = lenFull cls b

/-- R99, R100: when no slot matches and all 8 are occupied, nothing but `len_rsp` changes, and its
STATUS is EXHAUSTED; a LEN_REQ with an id that is neither assigned nor LONGDIV is answered BAD_OPCODE
and changes nothing else. -/
def Obligations.LenRequestFailures : Prop :=
  ∀ s : State,
    (∀ (i : Instr) (cls : LenClass) (b : Nat), lenRequestOf i = some (cls, b) →
      (∀ j : SlotId, (s.slot j).occ = true ∧
        ¬ ((s.slot j).bits.toNat = lenBits cls b ∧ (s.slot j).full.toNat = lenFull cls b)) →
      exec i s = .next { s with lenRsp := 0x40000000#32 }) ∧
    (∀ (opc : BitVec 5) (w : BitVec 20), (opc.toNat = 0 ∨ (0x0D ≤ opc.toNat ∧ opc.toNat ≠ 0x1F)) →
      exec (.lenReq opc w) s = .next { s with lenRsp := 0x80000000#32 })

/-- R92: the class of each opcode id, none for an id outside the table. R93, R94, R95: the adjusted
width by class, and its rounding: the full length is the least multiple of 64 that holds the width, at
least 64, and every derived value fits its field. -/
def Obligations.AdjustedLengths : Prop :=
  classOf 0x01#5 = some .addc ∧
  (∀ o ∈ [0x02#5, 0x03#5, 0x04#5, 0x05#5, 0x06#5, 0x07#5, 0x08#5, 0x09#5],
    classOf o = some .floor) ∧
  (∀ o ∈ [0x0A#5, 0x0B#5], classOf o = some .modmul) ∧
  classOf 0x0C#5 = some .modinv ∧ classOf 0x1F#5 = some .longdiv ∧
  (∀ o : BitVec 5, (o.toNat = 0 ∨ (0x0D ≤ o.toNat ∧ o.toNat ≠ 0x1F)) → classOf o = none) ∧
  ∀ (cls : LenClass) (b : Nat), b ≤ 1048575 →
    lenBits .addc b = b + 1 ∧ lenBits .modmul b = b + 2 ∧ lenBits .modinv b = max b 64 + 16 ∧
    lenBits .floor b = max b 64 ∧
    lenFull .longdiv b = max (2 * ((b + 63) / 64 * 64)) 192 ∧
    lenBits .longdiv b = lenFull .longdiv b ∧
    lenFull cls b % 64 = 0 ∧ lenBits cls b ≤ lenFull cls b ∧ lenFull cls b < lenBits cls b + 64 ∧
    64 ≤ lenFull cls b ∧ lenFull cls b ≤ 2097152 ∧ lenFull cls b / 32 ≤ 65536 ∧
    lenFull cls b / 32 % 2 = 0 ∧ lenFull cls b / 8 ≤ 262144

/-- R102: a write to LEN_RESET, whatever its data word: on an idle block it frees all 8 slots and
changes nothing else; while the block is not idle it is the model fault. -/
def Obligations.LenResetFreesEverySlot : Prop :=
  (∀ d : Word, decode (.host (.bus 0b1000000100000#13 d)) = .ok .lenReset) ∧
  ∀ s : State,
    (s.fifo = [] → s.busy = false →
      ∃ tab, exec .lenReset s = .next { s with lenTab := tab } ∧
        ∀ k : SlotId, tab.get k = ⟨false, 0#22, 0#22⟩) ∧
    (s.fifo ≠ [] ∨ s.busy = true → exec .lenReset s = .fault .slotResetWhileBusy)

/-- R21 (d) and the source's property S1: while a slot is occupied no step changes its pair. -/
def Obligations.OccupiedSlotKeepsItsPair : Prop :=
  ∀ (s s' : State) (k : SlotId), step s = .next s' → (s.slot k).occ = true →
    (s'.slot k).occ = true → s'.slot k = s.slot k

/-! ## The register allocator -/

/-- R105, R106: REG_ALLOC: BAD_SLOT, NO_ID, and on an idle block NO_SRAM or the least free pool id
with a zero-filled region that meets SramStore's contract; the failures need no idleness. -/
def Obligations.RegAllocAnswers : Prop :=
  ∀ (s : State) (k : SlotId),
    ((s.slot k).occ = false → exec (.regAlloc k) s = .next { s with regRsp := 0x60000000#32 }) ∧
    ((s.slot k).occ = true → (∀ i : RegId, i.val < 30 → (s.reg i).occ = true) →
      exec (.regAlloc k) s = .next { s with regRsp := 0x20000000#32 }) ∧
    ((s.slot k).occ = true → ∀ i : RegId, i.val < 30 → (s.reg i).occ = false →
      (∀ j : RegId, j < i → (s.reg j).occ = true) → s.isIdle = true →
      (s.sramAlloc (s.slotBytes k) = none ∧
        exec (.regAlloc k) s = .next { s with regRsp := 0x40000000#32, draws := s.draws + 1 }) ∨
      ∃ a, s.sramAlloc (s.slotBytes k) = some a ∧ exec (.regAlloc k) s = .next { s with
          regTab := s.regTab.set i.val
            ⟨true, BitVec.ofNat 32 a, BitVec.ofNat 32 ((s.slot k).full.toNat / 8)⟩ i.isLt
          live   := insertRegion a ((s.slot k).full.toNat / 8) s.live
          mem    := s.mem.write a ((s.slot k).full.toNat / 8) 0
          regRsp := BitVec.ofNat 32 i.val
          draws  := s.draws + 1 } ∧
        a % 8 = 0 ∧ a + (s.slot k).full.toNat / 8 ≤ s.cfg.sramSize ∧
        ∀ r ∈ s.live, a + (s.slot k).full.toNat / 8 ≤ r.1 ∨ r.1 + r.2 ≤ a)

/-- R108: REG_BIND: BAD_ID for an id that is not reserved or is occupied, BAD_SLOT, and on an idle
block NO_SRAM or the binding. -/
def Obligations.RegBindAnswers : Prop :=
  ∀ (s : State) (k : SlotId) (i : RegId),
    (i.val < 30 ∨ (s.reg i).occ = true →
      exec (.regBind i k) s = .next { s with regRsp := 0x80000000#32 }) ∧
    (30 ≤ i.val → (s.reg i).occ = false → (s.slot k).occ = false →
      exec (.regBind i k) s = .next { s with regRsp := 0x60000000#32 }) ∧
    (30 ≤ i.val → (s.reg i).occ = false → (s.slot k).occ = true → s.isIdle = true →
      (s.sramAlloc (s.slotBytes k) = none ∧
        exec (.regBind i k) s = .next { s with regRsp := 0x40000000#32, draws := s.draws + 1 }) ∨
      ∃ a, s.sramAlloc (s.slotBytes k) = some a ∧ exec (.regBind i k) s = .next { s with
          regTab := s.regTab.set i.val
            ⟨true, BitVec.ofNat 32 a, BitVec.ofNat 32 ((s.slot k).full.toNat / 8)⟩ i.isLt
          live   := insertRegion a ((s.slot k).full.toNat / 8) s.live
          mem    := s.mem.write a ((s.slot k).full.toNat / 8) 0
          regRsp := BitVec.ofNat 32 i.val
          draws  := s.draws + 1 } ∧
        a % 8 = 0 ∧ a + (s.slot k).full.toNat / 8 ≤ s.cfg.sramSize ∧
        ∀ r ∈ s.live, a + (s.slot k).full.toNat / 8 ≤ r.1 ∨ r.1 + r.2 ≤ a)

/-- R109, R110: REG_FREE of an occupied id on an idle block zeroes the whole region, releases it and
clears the entry; of a free id it changes nothing but `reg_rsp`, touches no SRAM and needs no
idleness; of an occupied id while the block is not idle it is the model fault. -/
def Obligations.RegFreeZeroesAndReleases : Prop :=
  ∀ (s : State) (i : RegId),
    ((s.reg i).occ = true → s.isIdle = true →
      exec (.regFree i) s = .next { s with
        mem    := s.mem.write (s.reg i).addr.toNat (s.reg i).size.toNat 0
        live   := s.live.filter (fun r => r.1 ≠ (s.reg i).addr.toNat)
        regTab := s.regTab.set i.val ⟨false, 0#32, 0#32⟩ i.isLt
        regRsp := BitVec.ofNat 32 i.val }) ∧
    ((s.reg i).occ = false →
      exec (.regFree i) s = .next { s with regRsp := BitVec.ofNat 32 i.val }) ∧
    ((s.reg i).occ = true → s.isIdle = false →
      exec (.regFree i) s = .fault .sramAccessWhileBusy)

/-- R114, for every answer `a` of SramStore that meets its contract: a REG_ALLOC answered OK and then a
REG_FREE of the id, with no step between them that writes REG_TAB (or the live set with it), leave
REG_TAB and the live set as they were and the region's bytes 0. The first clause says that REG_ALLOC
is `allocateWith` of what SramStore answers. -/
def Obligations.AllocThenFreeRestores : Prop :=
  ∀ (s : State) (k : SlotId) (i : RegId), s.ok → (s.slot k).occ = true → s.freeReg = some i →
    exec (.regAlloc k) s =
      s.drawn.allocateWith (s.sramAlloc (s.slotBytes k)) i (s.slotBytes k) ∧
    ∀ (a : Nat) (t t' u : State), legalRegion s.cfg s.live (s.slotBytes k) a = true →
      s.drawn.allocateWith (some a) i (s.slotBytes k) = .next t →
      t'.regTab = t.regTab → t'.live = t.live → t'.mem.wf → exec (.regFree i) t' = .next u →
      t.regRsp = BitVec.ofNat 32 i.val ∧ (t.reg i).occ = true ∧ (t.reg i).addr.toNat = a ∧
      u.regTab = s.regTab ∧ u.live = s.live ∧
      ∀ x, a ≤ x → x < a + (t.reg i).size.toNat → u.mem.readByte x = 0#8

/-- The frame of the HOST's operations (R47, R74, R82, R83, R96, R102, R105, R108, R109): no
operation of the HOST changes the ENGINE's state, the flags, the demultiplexer's state or a
parameter; only SRAM_WR32, REG_ALLOC, REG_BIND and REG_FREE reach the arena, only the last three the
registers; only PUSH reaches the log. -/
def Obligations.HostOperationFrame : Prop :=
  ∀ (i : Instr) (s t : State), exec i s = .next t → (∀ (op : Opcode) (c : Cmd), i ≠ op.instr c) →
    t.busy = s.busy ∧ t.cur = s.cur ∧ t.carry = s.carry ∧ t.zero = s.zero ∧ t.demux = s.demux ∧
    t.sigFifo = s.sigFifo ∧ t.sigDone = s.sigDone ∧ t.cfg = s.cfg ∧ t.program = s.program ∧
    t.sched = s.sched ∧ t.sibPend = s.sibPend ∧
    ((∀ a v, i ≠ .sramWr32 a v) → (∀ k, i ≠ .regAlloc k) → (∀ r k, i ≠ .regBind r k) →
      (∀ r, i ≠ .regFree r) → t.mem = s.mem) ∧
    ((∀ k, i ≠ .regAlloc k) → (∀ r k, i ≠ .regBind r k) → (∀ r, i ≠ .regFree r) →
      t.regTab = s.regTab ∧ t.live = s.live ∧ t.regRsp = s.regRsp ∧ t.draws = s.draws) ∧
    (lenRequestOf i = none → (∀ o w, i ≠ .lenReq o w) →
      t.lenRsp = s.lenRsp ∧ (i ≠ .lenReset → t.lenTab = s.lenTab)) ∧
    ((∀ w, i ≠ .push w) → t.faultLog = s.faultLog ∧
      ((∀ v, i ≠ .wrIntStat v) → t.intStat = s.intStat)) ∧
    ((∀ w, i ≠ .push w) → (∀ w, i ≠ .submit w) → t.fifo = s.fifo) ∧
    ((∀ w, i ≠ .submit w) → i ≠ .waitRoom → i ≠ .waitIdle → (∀ v, i ≠ .wrIntMask v) →
      t.intMask = s.intMask ∧ t.hwait = s.hwait ∧ t.held = s.held)

/-! ## Bus addresses -/

/-- R39, R41: in a legal configuration the bus address ALU_BASE + offset is the register at the
offset, and SRAM_BASE + offset the arena byte at the offset; other widths are refused. -/
def Obligations.BusAddressesReachTheirWindow : Prop :=
  ∀ (p : Params) (write : Bool) (d : Word) (off : Nat), p.legal →
    (off < 0x200 →
      routeAccess p (.mmio write 4 (p.aluBase + BitVec.ofNat 32 off) d) =
        .ok (.bus (BitVec.ofBool write ++ BitVec.ofNat 12 off) d)) ∧
    (off < p.sramSize →
      routeAccess p (.mmio write 4 (p.sramBase + BitVec.ofNat 32 off) d) =
        .ok (.sram (BitVec.ofBool write ++ BitVec.ofNat 32 off) d)) ∧
    (∀ n a, n ≠ 4 → routeAccess p (.mmio write n a d) = .error .badAccessWidth)

/-! ## Reset and invariants -/

/-- R164: the state after reset, for every legal configuration and every arena (R165): idle, empty,
silent, every cause masked; the invariants hold. -/
def Obligations.ResetIsIdleEmptyAndMasked : Prop :=
  ∀ (p : Params) (m : Memory) (s : State), s = State.resetWith p m →
    s.fifo = [] ∧ s.busy = false ∧ (∀ k, s.slot k = ⟨false, 0#22, 0#22⟩) ∧
    (∀ r, s.reg r = ⟨false, 0#32, 0#32⟩) ∧ s.carry = false ∧ s.zero = false ∧ s.intStat = 0#6 ∧
    s.intMask = 0x3F#6 ∧ s.faultLog = 0#6 ∧ s.lenRsp = 0#32 ∧ s.regRsp = 0#32 ∧
    s.sigFifo = false ∧ s.sigDone = false ∧ s.demux = .idle ∧ s.hwait = .none ∧ s.live = [] ∧
    s.mem = m ∧ s.topPend.getLsbD 0 = false ∧ (p.legal → s.status = 0x00001600#32)

/-- The invariants hold of the machine right after reset, in every legal configuration with every
canonical arena, `State.reset` among them (R18, R21, R23, R164). -/
def Obligations.ResetMeetsTheInvariants : Prop :=
  (∀ (p : Params) (m : Memory), p.legal → m.wf → (∀ c ∈ m, c.1 < p.sramSize) →
    (State.resetWith p m).ok) ∧ State.reset.ok

/-- The arena keeps its canonical form and lists no byte outside it, in every step (R37, R44, R46,
R49). -/
def Obligations.ArenaStaysCanonicalAndInside : Prop :=
  ∀ s s' : State, s.ok → step s = .next s' → s'.arenaOk

/-- R18: in every step the FIFO keeps its bound and its entries their reserved bits 0. -/
def Obligations.FifoStaysBounded : Prop :=
  ∀ s s' : State, s.fifoOk → step s = .next s' → s'.fifoOk

/-- R21: the length slots keep their invariants in every step. -/
def Obligations.LengthSlotsStayConsistent : Prop :=
  ∀ s s' : State, s.lenTabOk → step s = .next s' → s'.lenTabOk

/-- R23, R46: the virtual-register table and the live set keep their invariants in every step:
bindings stay valid, live and disjoint, free entries stay zero. -/
def Obligations.RegisterBindingsStayValid : Prop :=
  ∀ s s' : State, s.cfg.legal → s.lenTabOk → s.regTabOk → s.liveOk → step s = .next s' →
    s'.regTabOk ∧ s'.liveOk

/-- R7, R29, R31, R32, R36: no step changes a parameter, and the hardwired bits of FAULT_LOG, the
response words and the wait phases keep their invariants in every step. -/
def Obligations.RegistersAndWaitsStayLegal : Prop :=
  ∀ s s' : State, s.logOk → s.rspOk → s.waitOk → step s = .next s' →
    s'.cfg = s.cfg ∧ s'.logOk ∧ s'.rspOk ∧ s'.waitOk
end

