-- ==== Sys2Proof/Laws/State.lean ====
section
/-! SUPPORT. The fields of the state after each named update, one lemma a field, and the tables after
an entry is set. -/

namespace Sys2Proof.Machine

theorem State.ext_slot_set (s : State) (i : SlotId) (e : LenEntry) (j : SlotId) :
    (s.setSlot i e).slot j = if i = j then e else s.slot j := by
  show (s.lenTab.set i.val e i.isLt).get j = _
  rw [Vector.get_eq_getElem, Vector.getElem_set]
  by_cases h : i = j
  · rw [if_pos h, if_pos (congrArg Fin.val h)]
  · rw [if_neg h, if_neg (fun h' => h (Fin.ext h'))]; rfl

theorem State.ext_reg_set (s : State) (i : RegId) (e : RegEntry) (j : RegId) :
    (s.setReg i e).reg j = if i = j then e else s.reg j := by
  show (s.regTab.set i.val e i.isLt).get j = _
  rw [Vector.get_eq_getElem, Vector.getElem_set]
  by_cases h : i = j
  · rw [if_pos h, if_pos (congrArg Fin.val h)]
  · rw [if_neg h, if_neg (fun h' => h (Fin.ext h'))]; rfl

@[simp] theorem State.setSlot_fifo (s : State) (i : SlotId) (e : LenEntry) :
    (s.setSlot i e).fifo = s.fifo := rfl
@[simp] theorem State.setSlot_busy (s : State) (i : SlotId) (e : LenEntry) :
    (s.setSlot i e).busy = s.busy := rfl
@[simp] theorem State.setSlot_cur (s : State) (i : SlotId) (e : LenEntry) :
    (s.setSlot i e).cur = s.cur := rfl
@[simp] theorem State.setSlot_lenTab (s : State) (i : SlotId) (e : LenEntry) :
    (s.setSlot i e).lenTab = s.lenTab.set i.val e i.isLt := rfl
@[simp] theorem State.setSlot_regTab (s : State) (i : SlotId) (e : LenEntry) :
    (s.setSlot i e).regTab = s.regTab := rfl
@[simp] theorem State.setSlot_carry (s : State) (i : SlotId) (e : LenEntry) :
    (s.setSlot i e).carry = s.carry := rfl
@[simp] theorem State.setSlot_zero (s : State) (i : SlotId) (e : LenEntry) :
    (s.setSlot i e).zero = s.zero := rfl
@[simp] theorem State.setSlot_intStat (s : State) (i : SlotId) (e : LenEntry) :
    (s.setSlot i e).intStat = s.intStat := rfl
@[simp] theorem State.setSlot_intMask (s : State) (i : SlotId) (e : LenEntry) :
    (s.setSlot i e).intMask = s.intMask := rfl
@[simp] theorem State.setSlot_faultLog (s : State) (i : SlotId) (e : LenEntry) :
    (s.setSlot i e).faultLog = s.faultLog := rfl
@[simp] theorem State.setSlot_lenRsp (s : State) (i : SlotId) (e : LenEntry) :
    (s.setSlot i e).lenRsp = s.lenRsp := rfl
@[simp] theorem State.setSlot_regRsp (s : State) (i : SlotId) (e : LenEntry) :
    (s.setSlot i e).regRsp = s.regRsp := rfl
@[simp] theorem State.setSlot_sigFifo (s : State) (i : SlotId) (e : LenEntry) :
    (s.setSlot i e).sigFifo = s.sigFifo := rfl
@[simp] theorem State.setSlot_sigDone (s : State) (i : SlotId) (e : LenEntry) :
    (s.setSlot i e).sigDone = s.sigDone := rfl
@[simp] theorem State.setSlot_demux (s : State) (i : SlotId) (e : LenEntry) :
    (s.setSlot i e).demux = s.demux := rfl
@[simp] theorem State.setSlot_hwait (s : State) (i : SlotId) (e : LenEntry) :
    (s.setSlot i e).hwait = s.hwait := rfl
@[simp] theorem State.setSlot_mem (s : State) (i : SlotId) (e : LenEntry) :
    (s.setSlot i e).mem = s.mem := rfl
@[simp] theorem State.setSlot_live (s : State) (i : SlotId) (e : LenEntry) :
    (s.setSlot i e).live = s.live := rfl
@[simp] theorem State.setSlot_cfg (s : State) (i : SlotId) (e : LenEntry) :
    (s.setSlot i e).cfg = s.cfg := rfl
@[simp] theorem State.setSlot_held (s : State) (i : SlotId) (e : LenEntry) :
    (s.setSlot i e).held = s.held := rfl
@[simp] theorem State.setSlot_readData (s : State) (i : SlotId) (e : LenEntry) :
    (s.setSlot i e).readData = s.readData := rfl
@[simp] theorem State.setSlot_program (s : State) (i : SlotId) (e : LenEntry) :
    (s.setSlot i e).program = s.program := rfl
@[simp] theorem State.setSlot_sched (s : State) (i : SlotId) (e : LenEntry) :
    (s.setSlot i e).sched = s.sched := rfl
@[simp] theorem State.setSlot_sibPend (s : State) (i : SlotId) (e : LenEntry) :
    (s.setSlot i e).sibPend = s.sibPend := rfl
@[simp] theorem State.setSlot_draws (s : State) (i : SlotId) (e : LenEntry) :
    (s.setSlot i e).draws = s.draws := rfl

@[simp] theorem State.setReg_fifo (s : State) (i : RegId) (e : RegEntry) :
    (s.setReg i e).fifo = s.fifo := rfl
@[simp] theorem State.setReg_busy (s : State) (i : RegId) (e : RegEntry) :
    (s.setReg i e).busy = s.busy := rfl
@[simp] theorem State.setReg_cur (s : State) (i : RegId) (e : RegEntry) :
    (s.setReg i e).cur = s.cur := rfl
@[simp] theorem State.setReg_lenTab (s : State) (i : RegId) (e : RegEntry) :
    (s.setReg i e).lenTab = s.lenTab := rfl
@[simp] theorem State.setReg_regTab (s : State) (i : RegId) (e : RegEntry) :
    (s.setReg i e).regTab = s.regTab.set i.val e i.isLt := rfl
@[simp] theorem State.setReg_carry (s : State) (i : RegId) (e : RegEntry) :
    (s.setReg i e).carry = s.carry := rfl
@[simp] theorem State.setReg_zero (s : State) (i : RegId) (e : RegEntry) :
    (s.setReg i e).zero = s.zero := rfl
@[simp] theorem State.setReg_intStat (s : State) (i : RegId) (e : RegEntry) :
    (s.setReg i e).intStat = s.intStat := rfl
@[simp] theorem State.setReg_intMask (s : State) (i : RegId) (e : RegEntry) :
    (s.setReg i e).intMask = s.intMask := rfl
@[simp] theorem State.setReg_faultLog (s : State) (i : RegId) (e : RegEntry) :
    (s.setReg i e).faultLog = s.faultLog := rfl
@[simp] theorem State.setReg_lenRsp (s : State) (i : RegId) (e : RegEntry) :
    (s.setReg i e).lenRsp = s.lenRsp := rfl
@[simp] theorem State.setReg_regRsp (s : State) (i : RegId) (e : RegEntry) :
    (s.setReg i e).regRsp = s.regRsp := rfl
@[simp] theorem State.setReg_sigFifo (s : State) (i : RegId) (e : RegEntry) :
    (s.setReg i e).sigFifo = s.sigFifo := rfl
@[simp] theorem State.setReg_sigDone (s : State) (i : RegId) (e : RegEntry) :
    (s.setReg i e).sigDone = s.sigDone := rfl
@[simp] theorem State.setReg_demux (s : State) (i : RegId) (e : RegEntry) :
    (s.setReg i e).demux = s.demux := rfl
@[simp] theorem State.setReg_hwait (s : State) (i : RegId) (e : RegEntry) :
    (s.setReg i e).hwait = s.hwait := rfl
@[simp] theorem State.setReg_mem (s : State) (i : RegId) (e : RegEntry) :
    (s.setReg i e).mem = s.mem := rfl
@[simp] theorem State.setReg_live (s : State) (i : RegId) (e : RegEntry) :
    (s.setReg i e).live = s.live := rfl
@[simp] theorem State.setReg_cfg (s : State) (i : RegId) (e : RegEntry) :
    (s.setReg i e).cfg = s.cfg := rfl
@[simp] theorem State.setReg_held (s : State) (i : RegId) (e : RegEntry) :
    (s.setReg i e).held = s.held := rfl
@[simp] theorem State.setReg_readData (s : State) (i : RegId) (e : RegEntry) :
    (s.setReg i e).readData = s.readData := rfl
@[simp] theorem State.setReg_program (s : State) (i : RegId) (e : RegEntry) :
    (s.setReg i e).program = s.program := rfl
@[simp] theorem State.setReg_sched (s : State) (i : RegId) (e : RegEntry) :
    (s.setReg i e).sched = s.sched := rfl
@[simp] theorem State.setReg_sibPend (s : State) (i : RegId) (e : RegEntry) :
    (s.setReg i e).sibPend = s.sibPend := rfl
@[simp] theorem State.setReg_draws (s : State) (i : RegId) (e : RegEntry) :
    (s.setReg i e).draws = s.draws := rfl

@[simp] theorem State.latch_fifo (c : Cause) (s : State) : (s.latch c).fifo = s.fifo := rfl
@[simp] theorem State.latch_busy (c : Cause) (s : State) : (s.latch c).busy = s.busy := rfl
@[simp] theorem State.latch_cur (c : Cause) (s : State) : (s.latch c).cur = s.cur := rfl
@[simp] theorem State.latch_lenTab (c : Cause) (s : State) : (s.latch c).lenTab = s.lenTab := rfl
@[simp] theorem State.latch_regTab (c : Cause) (s : State) : (s.latch c).regTab = s.regTab := rfl
@[simp] theorem State.latch_carry (c : Cause) (s : State) : (s.latch c).carry = s.carry := rfl
@[simp] theorem State.latch_zero (c : Cause) (s : State) : (s.latch c).zero = s.zero := rfl
@[simp] theorem State.latch_intStat (c : Cause) (s : State) :
    (s.latch c).intStat = s.intStat ||| c.bit := rfl
@[simp] theorem State.latch_intMask (c : Cause) (s : State) : (s.latch c).intMask = s.intMask := rfl
@[simp] theorem State.latch_faultLog (c : Cause) (s : State) :
    (s.latch c).faultLog = s.faultLog := rfl
@[simp] theorem State.latch_lenRsp (c : Cause) (s : State) : (s.latch c).lenRsp = s.lenRsp := rfl
@[simp] theorem State.latch_regRsp (c : Cause) (s : State) : (s.latch c).regRsp = s.regRsp := rfl
@[simp] theorem State.latch_sigFifo (c : Cause) (s : State) : (s.latch c).sigFifo = s.sigFifo := rfl
@[simp] theorem State.latch_sigDone (c : Cause) (s : State) : (s.latch c).sigDone = s.sigDone := rfl
@[simp] theorem State.latch_demux (c : Cause) (s : State) : (s.latch c).demux = s.demux := rfl
@[simp] theorem State.latch_hwait (c : Cause) (s : State) : (s.latch c).hwait = s.hwait := rfl
@[simp] theorem State.latch_mem (c : Cause) (s : State) : (s.latch c).mem = s.mem := rfl
@[simp] theorem State.latch_live (c : Cause) (s : State) : (s.latch c).live = s.live := rfl
@[simp] theorem State.latch_cfg (c : Cause) (s : State) : (s.latch c).cfg = s.cfg := rfl
@[simp] theorem State.latch_held (c : Cause) (s : State) : (s.latch c).held = s.held := rfl
@[simp] theorem State.latch_readData (c : Cause) (s : State) :
    (s.latch c).readData = s.readData := rfl
@[simp] theorem State.latch_program (c : Cause) (s : State) : (s.latch c).program = s.program := rfl
@[simp] theorem State.latch_sched (c : Cause) (s : State) : (s.latch c).sched = s.sched := rfl
@[simp] theorem State.latch_sibPend (c : Cause) (s : State) : (s.latch c).sibPend = s.sibPend := rfl
@[simp] theorem State.latch_draws (c : Cause) (s : State) : (s.latch c).draws = s.draws := rfl

@[simp] theorem State.raise_fifo (c : Cause) (s : State) : (s.raise c).fifo = s.fifo := rfl
@[simp] theorem State.raise_busy (c : Cause) (s : State) : (s.raise c).busy = s.busy := rfl
@[simp] theorem State.raise_cur (c : Cause) (s : State) : (s.raise c).cur = s.cur := rfl
@[simp] theorem State.raise_lenTab (c : Cause) (s : State) : (s.raise c).lenTab = s.lenTab := rfl
@[simp] theorem State.raise_regTab (c : Cause) (s : State) : (s.raise c).regTab = s.regTab := rfl
@[simp] theorem State.raise_carry (c : Cause) (s : State) : (s.raise c).carry = s.carry := rfl
@[simp] theorem State.raise_zero (c : Cause) (s : State) : (s.raise c).zero = s.zero := rfl
@[simp] theorem State.raise_intStat (c : Cause) (s : State) :
    (s.raise c).intStat = s.intStat ||| c.bit := rfl
@[simp] theorem State.raise_intMask (c : Cause) (s : State) : (s.raise c).intMask = s.intMask := rfl
@[simp] theorem State.raise_faultLog (c : Cause) (s : State) :
    (s.raise c).faultLog = s.faultLog ||| c.bit := rfl
@[simp] theorem State.raise_lenRsp (c : Cause) (s : State) : (s.raise c).lenRsp = s.lenRsp := rfl
@[simp] theorem State.raise_regRsp (c : Cause) (s : State) : (s.raise c).regRsp = s.regRsp := rfl
@[simp] theorem State.raise_sigFifo (c : Cause) (s : State) : (s.raise c).sigFifo = s.sigFifo := rfl
@[simp] theorem State.raise_sigDone (c : Cause) (s : State) : (s.raise c).sigDone = s.sigDone := rfl
@[simp] theorem State.raise_demux (c : Cause) (s : State) : (s.raise c).demux = s.demux := rfl
@[simp] theorem State.raise_hwait (c : Cause) (s : State) : (s.raise c).hwait = s.hwait := rfl
@[simp] theorem State.raise_mem (c : Cause) (s : State) : (s.raise c).mem = s.mem := rfl
@[simp] theorem State.raise_live (c : Cause) (s : State) : (s.raise c).live = s.live := rfl
@[simp] theorem State.raise_cfg (c : Cause) (s : State) : (s.raise c).cfg = s.cfg := rfl
@[simp] theorem State.raise_held (c : Cause) (s : State) : (s.raise c).held = s.held := rfl
@[simp] theorem State.raise_readData (c : Cause) (s : State) :
    (s.raise c).readData = s.readData := rfl
@[simp] theorem State.raise_program (c : Cause) (s : State) : (s.raise c).program = s.program := rfl
@[simp] theorem State.raise_sched (c : Cause) (s : State) : (s.raise c).sched = s.sched := rfl
@[simp] theorem State.raise_sibPend (c : Cause) (s : State) : (s.raise c).sibPend = s.sibPend := rfl
@[simp] theorem State.raise_draws (c : Cause) (s : State) : (s.raise c).draws = s.draws := rfl

@[simp] theorem State.demuxMask_fifo (c : Cause) (s : State) : (s.demuxMask c).fifo = s.fifo := rfl
@[simp] theorem State.demuxMask_busy (c : Cause) (s : State) : (s.demuxMask c).busy = s.busy := rfl
@[simp] theorem State.demuxMask_cur (c : Cause) (s : State) : (s.demuxMask c).cur = s.cur := rfl
@[simp] theorem State.demuxMask_lenTab (c : Cause) (s : State) :
    (s.demuxMask c).lenTab = s.lenTab := rfl
@[simp] theorem State.demuxMask_regTab (c : Cause) (s : State) :
    (s.demuxMask c).regTab = s.regTab := rfl
@[simp] theorem State.demuxMask_carry (c : Cause) (s : State) :
    (s.demuxMask c).carry = s.carry := rfl
@[simp] theorem State.demuxMask_zero (c : Cause) (s : State) : (s.demuxMask c).zero = s.zero := rfl
@[simp] theorem State.demuxMask_intStat (c : Cause) (s : State) :
    (s.demuxMask c).intStat = s.intStat := rfl
@[simp] theorem State.demuxMask_intMask (c : Cause) (s : State) :
    (s.demuxMask c).intMask = s.intMask ||| c.bit := rfl
@[simp] theorem State.demuxMask_faultLog (c : Cause) (s : State) :
    (s.demuxMask c).faultLog = s.faultLog := rfl
@[simp] theorem State.demuxMask_lenRsp (c : Cause) (s : State) :
    (s.demuxMask c).lenRsp = s.lenRsp := rfl
@[simp] theorem State.demuxMask_regRsp (c : Cause) (s : State) :
    (s.demuxMask c).regRsp = s.regRsp := rfl
@[simp] theorem State.demuxMask_sigFifo (c : Cause) (s : State) :
    (s.demuxMask c).sigFifo = s.sigFifo := rfl
@[simp] theorem State.demuxMask_sigDone (c : Cause) (s : State) :
    (s.demuxMask c).sigDone = s.sigDone := rfl
@[simp] theorem State.demuxMask_demux (c : Cause) (s : State) :
    (s.demuxMask c).demux = .masked c := rfl
@[simp] theorem State.demuxMask_hwait (c : Cause) (s : State) :
    (s.demuxMask c).hwait = s.hwait := rfl
@[simp] theorem State.demuxMask_mem (c : Cause) (s : State) : (s.demuxMask c).mem = s.mem := rfl
@[simp] theorem State.demuxMask_live (c : Cause) (s : State) : (s.demuxMask c).live = s.live := rfl
@[simp] theorem State.demuxMask_cfg (c : Cause) (s : State) : (s.demuxMask c).cfg = s.cfg := rfl
@[simp] theorem State.demuxMask_held (c : Cause) (s : State) : (s.demuxMask c).held = s.held := rfl
@[simp] theorem State.demuxMask_readData (c : Cause) (s : State) :
    (s.demuxMask c).readData = s.readData := rfl
@[simp] theorem State.demuxMask_program (c : Cause) (s : State) :
    (s.demuxMask c).program = s.program := rfl
@[simp] theorem State.demuxMask_sched (c : Cause) (s : State) :
    (s.demuxMask c).sched = s.sched := rfl
@[simp] theorem State.demuxMask_sibPend (c : Cause) (s : State) :
    (s.demuxMask c).sibPend = s.sibPend := rfl
@[simp] theorem State.demuxMask_draws (c : Cause) (s : State) :
    (s.demuxMask c).draws = s.draws := rfl

@[simp] theorem State.demuxRelease_fifo (c : Cause) (s : State) :
    (s.demuxRelease c).fifo = s.fifo := rfl
@[simp] theorem State.demuxRelease_busy (c : Cause) (s : State) :
    (s.demuxRelease c).busy = s.busy := rfl
@[simp] theorem State.demuxRelease_cur (c : Cause) (s : State) :
    (s.demuxRelease c).cur = s.cur := rfl
@[simp] theorem State.demuxRelease_lenTab (c : Cause) (s : State) :
    (s.demuxRelease c).lenTab = s.lenTab := rfl
@[simp] theorem State.demuxRelease_regTab (c : Cause) (s : State) :
    (s.demuxRelease c).regTab = s.regTab := rfl
@[simp] theorem State.demuxRelease_carry (c : Cause) (s : State) :
    (s.demuxRelease c).carry = s.carry := rfl
@[simp] theorem State.demuxRelease_zero (c : Cause) (s : State) :
    (s.demuxRelease c).zero = s.zero := rfl
@[simp] theorem State.demuxRelease_intStat (c : Cause) (s : State) :
    (s.demuxRelease c).intStat = s.intStat := rfl
@[simp] theorem State.demuxRelease_intMask (c : Cause) (s : State) :
    (s.demuxRelease c).intMask = s.intMask := rfl
@[simp] theorem State.demuxRelease_faultLog (c : Cause) (s : State) :
    (s.demuxRelease c).faultLog = s.faultLog := rfl
@[simp] theorem State.demuxRelease_lenRsp (c : Cause) (s : State) :
    (s.demuxRelease c).lenRsp = s.lenRsp := rfl
@[simp] theorem State.demuxRelease_regRsp (c : Cause) (s : State) :
    (s.demuxRelease c).regRsp = s.regRsp := rfl
@[simp] theorem State.demuxRelease_sigFifo (c : Cause) (s : State) :
    (s.demuxRelease c).sigFifo = (s.sigFifo || (decide (c = .fifoWm) || c.isFault)) := rfl
@[simp] theorem State.demuxRelease_sigDone (c : Cause) (s : State) :
    (s.demuxRelease c).sigDone = (s.sigDone || (decide (c = .done) || c.isFault)) := rfl
@[simp] theorem State.demuxRelease_demux (c : Cause) (s : State) :
    (s.demuxRelease c).demux = .released c := rfl
@[simp] theorem State.demuxRelease_hwait (c : Cause) (s : State) :
    (s.demuxRelease c).hwait = s.hwait := rfl
@[simp] theorem State.demuxRelease_mem (c : Cause) (s : State) :
    (s.demuxRelease c).mem = s.mem := rfl
@[simp] theorem State.demuxRelease_live (c : Cause) (s : State) :
    (s.demuxRelease c).live = s.live := rfl
@[simp] theorem State.demuxRelease_cfg (c : Cause) (s : State) :
    (s.demuxRelease c).cfg = s.cfg := rfl
@[simp] theorem State.demuxRelease_held (c : Cause) (s : State) :
    (s.demuxRelease c).held = s.held := rfl
@[simp] theorem State.demuxRelease_readData (c : Cause) (s : State) :
    (s.demuxRelease c).readData = s.readData := rfl
@[simp] theorem State.demuxRelease_program (c : Cause) (s : State) :
    (s.demuxRelease c).program = s.program := rfl
@[simp] theorem State.demuxRelease_sched (c : Cause) (s : State) :
    (s.demuxRelease c).sched = s.sched := rfl
@[simp] theorem State.demuxRelease_sibPend (c : Cause) (s : State) :
    (s.demuxRelease c).sibPend = s.sibPend := rfl
@[simp] theorem State.demuxRelease_draws (c : Cause) (s : State) :
    (s.demuxRelease c).draws = s.draws := rfl

@[simp] theorem State.demuxClear_fifo (c : Cause) (s : State) :
    (s.demuxClear c).fifo = s.fifo := rfl
@[simp] theorem State.demuxClear_busy (c : Cause) (s : State) :
    (s.demuxClear c).busy = s.busy := rfl
@[simp] theorem State.demuxClear_cur (c : Cause) (s : State) : (s.demuxClear c).cur = s.cur := rfl
@[simp] theorem State.demuxClear_lenTab (c : Cause) (s : State) :
    (s.demuxClear c).lenTab = s.lenTab := rfl
@[simp] theorem State.demuxClear_regTab (c : Cause) (s : State) :
    (s.demuxClear c).regTab = s.regTab := rfl
@[simp] theorem State.demuxClear_carry (c : Cause) (s : State) :
    (s.demuxClear c).carry = s.carry := rfl
@[simp] theorem State.demuxClear_zero (c : Cause) (s : State) :
    (s.demuxClear c).zero = s.zero := rfl
@[simp] theorem State.demuxClear_intStat (c : Cause) (s : State) :
    (s.demuxClear c).intStat = s.intStat &&& ~~~c.bit := rfl
@[simp] theorem State.demuxClear_intMask (c : Cause) (s : State) :
    (s.demuxClear c).intMask = s.intMask := rfl
@[simp] theorem State.demuxClear_faultLog (c : Cause) (s : State) :
    (s.demuxClear c).faultLog = s.faultLog := rfl
@[simp] theorem State.demuxClear_lenRsp (c : Cause) (s : State) :
    (s.demuxClear c).lenRsp = s.lenRsp := rfl
@[simp] theorem State.demuxClear_regRsp (c : Cause) (s : State) :
    (s.demuxClear c).regRsp = s.regRsp := rfl
@[simp] theorem State.demuxClear_sigFifo (c : Cause) (s : State) :
    (s.demuxClear c).sigFifo = s.sigFifo := rfl
@[simp] theorem State.demuxClear_sigDone (c : Cause) (s : State) :
    (s.demuxClear c).sigDone = s.sigDone := rfl
@[simp] theorem State.demuxClear_demux (c : Cause) (s : State) :
    (s.demuxClear c).demux = .idle := rfl
@[simp] theorem State.demuxClear_hwait (c : Cause) (s : State) :
    (s.demuxClear c).hwait = s.hwait := rfl
@[simp] theorem State.demuxClear_mem (c : Cause) (s : State) : (s.demuxClear c).mem = s.mem := rfl
@[simp] theorem State.demuxClear_live (c : Cause) (s : State) :
    (s.demuxClear c).live = s.live := rfl
@[simp] theorem State.demuxClear_cfg (c : Cause) (s : State) : (s.demuxClear c).cfg = s.cfg := rfl
@[simp] theorem State.demuxClear_held (c : Cause) (s : State) :
    (s.demuxClear c).held = s.held := rfl
@[simp] theorem State.demuxClear_readData (c : Cause) (s : State) :
    (s.demuxClear c).readData = s.readData := rfl
@[simp] theorem State.demuxClear_program (c : Cause) (s : State) :
    (s.demuxClear c).program = s.program := rfl
@[simp] theorem State.demuxClear_sched (c : Cause) (s : State) :
    (s.demuxClear c).sched = s.sched := rfl
@[simp] theorem State.demuxClear_sibPend (c : Cause) (s : State) :
    (s.demuxClear c).sibPend = s.sibPend := rfl
@[simp] theorem State.demuxClear_draws (c : Cause) (s : State) :
    (s.demuxClear c).draws = s.draws := rfl

@[simp] theorem State.putReg_fifo (s : State) (i : RegId) (lb v : Nat) :
    (s.putReg i lb v).fifo = s.fifo := rfl
@[simp] theorem State.putReg_busy (s : State) (i : RegId) (lb v : Nat) :
    (s.putReg i lb v).busy = s.busy := rfl
@[simp] theorem State.putReg_cur (s : State) (i : RegId) (lb v : Nat) :
    (s.putReg i lb v).cur = s.cur := rfl
@[simp] theorem State.putReg_lenTab (s : State) (i : RegId) (lb v : Nat) :
    (s.putReg i lb v).lenTab = s.lenTab := rfl
@[simp] theorem State.putReg_regTab (s : State) (i : RegId) (lb v : Nat) :
    (s.putReg i lb v).regTab = s.regTab := rfl
@[simp] theorem State.putReg_carry (s : State) (i : RegId) (lb v : Nat) :
    (s.putReg i lb v).carry = s.carry := rfl
@[simp] theorem State.putReg_zero (s : State) (i : RegId) (lb v : Nat) :
    (s.putReg i lb v).zero = s.zero := rfl
@[simp] theorem State.putReg_intStat (s : State) (i : RegId) (lb v : Nat) :
    (s.putReg i lb v).intStat = s.intStat := rfl
@[simp] theorem State.putReg_intMask (s : State) (i : RegId) (lb v : Nat) :
    (s.putReg i lb v).intMask = s.intMask := rfl
@[simp] theorem State.putReg_faultLog (s : State) (i : RegId) (lb v : Nat) :
    (s.putReg i lb v).faultLog = s.faultLog := rfl
@[simp] theorem State.putReg_lenRsp (s : State) (i : RegId) (lb v : Nat) :
    (s.putReg i lb v).lenRsp = s.lenRsp := rfl
@[simp] theorem State.putReg_regRsp (s : State) (i : RegId) (lb v : Nat) :
    (s.putReg i lb v).regRsp = s.regRsp := rfl
@[simp] theorem State.putReg_sigFifo (s : State) (i : RegId) (lb v : Nat) :
    (s.putReg i lb v).sigFifo = s.sigFifo := rfl
@[simp] theorem State.putReg_sigDone (s : State) (i : RegId) (lb v : Nat) :
    (s.putReg i lb v).sigDone = s.sigDone := rfl
@[simp] theorem State.putReg_demux (s : State) (i : RegId) (lb v : Nat) :
    (s.putReg i lb v).demux = s.demux := rfl
@[simp] theorem State.putReg_hwait (s : State) (i : RegId) (lb v : Nat) :
    (s.putReg i lb v).hwait = s.hwait := rfl
@[simp] theorem State.putReg_mem (s : State) (i : RegId) (lb v : Nat) :
    (s.putReg i lb v).mem = s.mem.write (s.reg i).addr.toNat (lb / 8) (v % 2 ^ lb) := rfl
@[simp] theorem State.putReg_live (s : State) (i : RegId) (lb v : Nat) :
    (s.putReg i lb v).live = s.live := rfl
@[simp] theorem State.putReg_cfg (s : State) (i : RegId) (lb v : Nat) :
    (s.putReg i lb v).cfg = s.cfg := rfl
@[simp] theorem State.putReg_held (s : State) (i : RegId) (lb v : Nat) :
    (s.putReg i lb v).held = s.held := rfl
@[simp] theorem State.putReg_readData (s : State) (i : RegId) (lb v : Nat) :
    (s.putReg i lb v).readData = s.readData := rfl
@[simp] theorem State.putReg_program (s : State) (i : RegId) (lb v : Nat) :
    (s.putReg i lb v).program = s.program := rfl
@[simp] theorem State.putReg_sched (s : State) (i : RegId) (lb v : Nat) :
    (s.putReg i lb v).sched = s.sched := rfl
@[simp] theorem State.putReg_sibPend (s : State) (i : RegId) (lb v : Nat) :
    (s.putReg i lb v).sibPend = s.sibPend := rfl
@[simp] theorem State.putReg_draws (s : State) (i : RegId) (lb v : Nat) :
    (s.putReg i lb v).draws = s.draws := rfl

@[simp] theorem State.returnRead_fifo (v : Word) (s : State) : (s.returnRead v).fifo = s.fifo := rfl
@[simp] theorem State.returnRead_busy (v : Word) (s : State) : (s.returnRead v).busy = s.busy := rfl
@[simp] theorem State.returnRead_cur (v : Word) (s : State) : (s.returnRead v).cur = s.cur := rfl
@[simp] theorem State.returnRead_lenTab (v : Word) (s : State) :
    (s.returnRead v).lenTab = s.lenTab := rfl
@[simp] theorem State.returnRead_regTab (v : Word) (s : State) :
    (s.returnRead v).regTab = s.regTab := rfl
@[simp] theorem State.returnRead_carry (v : Word) (s : State) :
    (s.returnRead v).carry = s.carry := rfl
@[simp] theorem State.returnRead_zero (v : Word) (s : State) : (s.returnRead v).zero = s.zero := rfl
@[simp] theorem State.returnRead_intStat (v : Word) (s : State) :
    (s.returnRead v).intStat = s.intStat := rfl
@[simp] theorem State.returnRead_intMask (v : Word) (s : State) :
    (s.returnRead v).intMask = s.intMask := rfl
@[simp] theorem State.returnRead_faultLog (v : Word) (s : State) :
    (s.returnRead v).faultLog = s.faultLog := rfl
@[simp] theorem State.returnRead_lenRsp (v : Word) (s : State) :
    (s.returnRead v).lenRsp = s.lenRsp := rfl
@[simp] theorem State.returnRead_regRsp (v : Word) (s : State) :
    (s.returnRead v).regRsp = s.regRsp := rfl
@[simp] theorem State.returnRead_sigFifo (v : Word) (s : State) :
    (s.returnRead v).sigFifo = s.sigFifo := rfl
@[simp] theorem State.returnRead_sigDone (v : Word) (s : State) :
    (s.returnRead v).sigDone = s.sigDone := rfl
@[simp] theorem State.returnRead_demux (v : Word) (s : State) :
    (s.returnRead v).demux = s.demux := rfl
@[simp] theorem State.returnRead_hwait (v : Word) (s : State) :
    (s.returnRead v).hwait = s.hwait := rfl
@[simp] theorem State.returnRead_mem (v : Word) (s : State) : (s.returnRead v).mem = s.mem := rfl
@[simp] theorem State.returnRead_live (v : Word) (s : State) : (s.returnRead v).live = s.live := rfl
@[simp] theorem State.returnRead_cfg (v : Word) (s : State) : (s.returnRead v).cfg = s.cfg := rfl
@[simp] theorem State.returnRead_held (v : Word) (s : State) : (s.returnRead v).held = s.held := rfl
@[simp] theorem State.returnRead_readData (v : Word) (s : State) :
    (s.returnRead v).readData = v := rfl
@[simp] theorem State.returnRead_program (v : Word) (s : State) :
    (s.returnRead v).program = s.program := rfl
@[simp] theorem State.returnRead_sched (v : Word) (s : State) :
    (s.returnRead v).sched = s.sched := rfl
@[simp] theorem State.returnRead_sibPend (v : Word) (s : State) :
    (s.returnRead v).sibPend = s.sibPend := rfl
@[simp] theorem State.returnRead_draws (v : Word) (s : State) :
    (s.returnRead v).draws = s.draws := rfl

@[simp] theorem State.drawn_fifo (s : State) : s.drawn.fifo = s.fifo := rfl
@[simp] theorem State.drawn_busy (s : State) : s.drawn.busy = s.busy := rfl
@[simp] theorem State.drawn_cur (s : State) : s.drawn.cur = s.cur := rfl
@[simp] theorem State.drawn_lenTab (s : State) : s.drawn.lenTab = s.lenTab := rfl
@[simp] theorem State.drawn_regTab (s : State) : s.drawn.regTab = s.regTab := rfl
@[simp] theorem State.drawn_carry (s : State) : s.drawn.carry = s.carry := rfl
@[simp] theorem State.drawn_zero (s : State) : s.drawn.zero = s.zero := rfl
@[simp] theorem State.drawn_intStat (s : State) : s.drawn.intStat = s.intStat := rfl
@[simp] theorem State.drawn_intMask (s : State) : s.drawn.intMask = s.intMask := rfl
@[simp] theorem State.drawn_faultLog (s : State) : s.drawn.faultLog = s.faultLog := rfl
@[simp] theorem State.drawn_lenRsp (s : State) : s.drawn.lenRsp = s.lenRsp := rfl
@[simp] theorem State.drawn_regRsp (s : State) : s.drawn.regRsp = s.regRsp := rfl
@[simp] theorem State.drawn_sigFifo (s : State) : s.drawn.sigFifo = s.sigFifo := rfl
@[simp] theorem State.drawn_sigDone (s : State) : s.drawn.sigDone = s.sigDone := rfl
@[simp] theorem State.drawn_demux (s : State) : s.drawn.demux = s.demux := rfl
@[simp] theorem State.drawn_hwait (s : State) : s.drawn.hwait = s.hwait := rfl
@[simp] theorem State.drawn_mem (s : State) : s.drawn.mem = s.mem := rfl
@[simp] theorem State.drawn_live (s : State) : s.drawn.live = s.live := rfl
@[simp] theorem State.drawn_cfg (s : State) : s.drawn.cfg = s.cfg := rfl
@[simp] theorem State.drawn_held (s : State) : s.drawn.held = s.held := rfl
@[simp] theorem State.drawn_readData (s : State) : s.drawn.readData = s.readData := rfl
@[simp] theorem State.drawn_program (s : State) : s.drawn.program = s.program := rfl
@[simp] theorem State.drawn_sched (s : State) : s.drawn.sched = s.sched := rfl
@[simp] theorem State.drawn_sibPend (s : State) : s.drawn.sibPend = s.sibPend := rfl
@[simp] theorem State.drawn_draws (s : State) : s.drawn.draws = s.draws + 1 := rfl

@[simp] theorem State.armRoom_fifo (s : State) : s.armRoom.fifo = s.fifo := rfl
@[simp] theorem State.armRoom_busy (s : State) : s.armRoom.busy = s.busy := rfl
@[simp] theorem State.armRoom_cur (s : State) : s.armRoom.cur = s.cur := rfl
@[simp] theorem State.armRoom_lenTab (s : State) : s.armRoom.lenTab = s.lenTab := rfl
@[simp] theorem State.armRoom_regTab (s : State) : s.armRoom.regTab = s.regTab := rfl
@[simp] theorem State.armRoom_carry (s : State) : s.armRoom.carry = s.carry := rfl
@[simp] theorem State.armRoom_zero (s : State) : s.armRoom.zero = s.zero := rfl
@[simp] theorem State.armRoom_intStat (s : State) : s.armRoom.intStat = s.intStat := rfl
@[simp] theorem State.armRoom_intMask (s : State) :
    s.armRoom.intMask = armMask .fifoWm s.intMask := rfl
@[simp] theorem State.armRoom_faultLog (s : State) : s.armRoom.faultLog = s.faultLog := rfl
@[simp] theorem State.armRoom_lenRsp (s : State) : s.armRoom.lenRsp = s.lenRsp := rfl
@[simp] theorem State.armRoom_regRsp (s : State) : s.armRoom.regRsp = s.regRsp := rfl
@[simp] theorem State.armRoom_sigFifo (s : State) : s.armRoom.sigFifo = false := rfl
@[simp] theorem State.armRoom_sigDone (s : State) : s.armRoom.sigDone = s.sigDone := rfl
@[simp] theorem State.armRoom_demux (s : State) : s.armRoom.demux = s.demux := rfl
@[simp] theorem State.armRoom_hwait (s : State) : s.armRoom.hwait = .roomArmed := rfl
@[simp] theorem State.armRoom_mem (s : State) : s.armRoom.mem = s.mem := rfl
@[simp] theorem State.armRoom_live (s : State) : s.armRoom.live = s.live := rfl
@[simp] theorem State.armRoom_cfg (s : State) : s.armRoom.cfg = s.cfg := rfl
@[simp] theorem State.armRoom_held (s : State) : s.armRoom.held = s.held := rfl
@[simp] theorem State.armRoom_readData (s : State) : s.armRoom.readData = s.readData := rfl
@[simp] theorem State.armRoom_program (s : State) : s.armRoom.program = s.program := rfl
@[simp] theorem State.armRoom_sched (s : State) : s.armRoom.sched = s.sched := rfl
@[simp] theorem State.armRoom_sibPend (s : State) : s.armRoom.sibPend = s.sibPend := rfl
@[simp] theorem State.armRoom_draws (s : State) : s.armRoom.draws = s.draws := rfl

@[simp] theorem State.armIdle_fifo (s : State) : s.armIdle.fifo = s.fifo := rfl
@[simp] theorem State.armIdle_busy (s : State) : s.armIdle.busy = s.busy := rfl
@[simp] theorem State.armIdle_cur (s : State) : s.armIdle.cur = s.cur := rfl
@[simp] theorem State.armIdle_lenTab (s : State) : s.armIdle.lenTab = s.lenTab := rfl
@[simp] theorem State.armIdle_regTab (s : State) : s.armIdle.regTab = s.regTab := rfl
@[simp] theorem State.armIdle_carry (s : State) : s.armIdle.carry = s.carry := rfl
@[simp] theorem State.armIdle_zero (s : State) : s.armIdle.zero = s.zero := rfl
@[simp] theorem State.armIdle_intStat (s : State) : s.armIdle.intStat = s.intStat := rfl
@[simp] theorem State.armIdle_intMask (s : State) :
    s.armIdle.intMask = armMask .done s.intMask := rfl
@[simp] theorem State.armIdle_faultLog (s : State) : s.armIdle.faultLog = s.faultLog := rfl
@[simp] theorem State.armIdle_lenRsp (s : State) : s.armIdle.lenRsp = s.lenRsp := rfl
@[simp] theorem State.armIdle_regRsp (s : State) : s.armIdle.regRsp = s.regRsp := rfl
@[simp] theorem State.armIdle_sigFifo (s : State) : s.armIdle.sigFifo = s.sigFifo := rfl
@[simp] theorem State.armIdle_sigDone (s : State) : s.armIdle.sigDone = false := rfl
@[simp] theorem State.armIdle_demux (s : State) : s.armIdle.demux = s.demux := rfl
@[simp] theorem State.armIdle_hwait (s : State) : s.armIdle.hwait = .idleArmed := rfl
@[simp] theorem State.armIdle_mem (s : State) : s.armIdle.mem = s.mem := rfl
@[simp] theorem State.armIdle_live (s : State) : s.armIdle.live = s.live := rfl
@[simp] theorem State.armIdle_cfg (s : State) : s.armIdle.cfg = s.cfg := rfl
@[simp] theorem State.armIdle_held (s : State) : s.armIdle.held = s.held := rfl
@[simp] theorem State.armIdle_readData (s : State) : s.armIdle.readData = s.readData := rfl
@[simp] theorem State.armIdle_program (s : State) : s.armIdle.program = s.program := rfl
@[simp] theorem State.armIdle_sched (s : State) : s.armIdle.sched = s.sched := rfl
@[simp] theorem State.armIdle_sibPend (s : State) : s.armIdle.sibPend = s.sibPend := rfl
@[simp] theorem State.armIdle_draws (s : State) : s.armIdle.draws = s.draws := rfl

@[simp] theorem State.wakeRoom_fifo (s : State) : s.wakeRoom.fifo = s.fifo := rfl
@[simp] theorem State.wakeRoom_busy (s : State) : s.wakeRoom.busy = s.busy := rfl
@[simp] theorem State.wakeRoom_cur (s : State) : s.wakeRoom.cur = s.cur := rfl
@[simp] theorem State.wakeRoom_lenTab (s : State) : s.wakeRoom.lenTab = s.lenTab := rfl
@[simp] theorem State.wakeRoom_regTab (s : State) : s.wakeRoom.regTab = s.regTab := rfl
@[simp] theorem State.wakeRoom_carry (s : State) : s.wakeRoom.carry = s.carry := rfl
@[simp] theorem State.wakeRoom_zero (s : State) : s.wakeRoom.zero = s.zero := rfl
@[simp] theorem State.wakeRoom_intStat (s : State) : s.wakeRoom.intStat = s.intStat := rfl
@[simp] theorem State.wakeRoom_intMask (s : State) : s.wakeRoom.intMask = s.intMask := rfl
@[simp] theorem State.wakeRoom_faultLog (s : State) : s.wakeRoom.faultLog = s.faultLog := rfl
@[simp] theorem State.wakeRoom_lenRsp (s : State) : s.wakeRoom.lenRsp = s.lenRsp := rfl
@[simp] theorem State.wakeRoom_regRsp (s : State) : s.wakeRoom.regRsp = s.regRsp := rfl
@[simp] theorem State.wakeRoom_sigFifo (s : State) : s.wakeRoom.sigFifo = false := rfl
@[simp] theorem State.wakeRoom_sigDone (s : State) : s.wakeRoom.sigDone = s.sigDone := rfl
@[simp] theorem State.wakeRoom_demux (s : State) : s.wakeRoom.demux = s.demux := rfl
@[simp] theorem State.wakeRoom_hwait (s : State) : s.wakeRoom.hwait = .roomCheck := rfl
@[simp] theorem State.wakeRoom_mem (s : State) : s.wakeRoom.mem = s.mem := rfl
@[simp] theorem State.wakeRoom_live (s : State) : s.wakeRoom.live = s.live := rfl
@[simp] theorem State.wakeRoom_cfg (s : State) : s.wakeRoom.cfg = s.cfg := rfl
@[simp] theorem State.wakeRoom_held (s : State) : s.wakeRoom.held = s.held := rfl
@[simp] theorem State.wakeRoom_readData (s : State) : s.wakeRoom.readData = s.readData := rfl
@[simp] theorem State.wakeRoom_program (s : State) : s.wakeRoom.program = s.program := rfl
@[simp] theorem State.wakeRoom_sched (s : State) : s.wakeRoom.sched = s.sched := rfl
@[simp] theorem State.wakeRoom_sibPend (s : State) : s.wakeRoom.sibPend = s.sibPend := rfl
@[simp] theorem State.wakeRoom_draws (s : State) : s.wakeRoom.draws = s.draws := rfl

@[simp] theorem State.wakeIdle_fifo (s : State) : s.wakeIdle.fifo = s.fifo := rfl
@[simp] theorem State.wakeIdle_busy (s : State) : s.wakeIdle.busy = s.busy := rfl
@[simp] theorem State.wakeIdle_cur (s : State) : s.wakeIdle.cur = s.cur := rfl
@[simp] theorem State.wakeIdle_lenTab (s : State) : s.wakeIdle.lenTab = s.lenTab := rfl
@[simp] theorem State.wakeIdle_regTab (s : State) : s.wakeIdle.regTab = s.regTab := rfl
@[simp] theorem State.wakeIdle_carry (s : State) : s.wakeIdle.carry = s.carry := rfl
@[simp] theorem State.wakeIdle_zero (s : State) : s.wakeIdle.zero = s.zero := rfl
@[simp] theorem State.wakeIdle_intStat (s : State) : s.wakeIdle.intStat = s.intStat := rfl
@[simp] theorem State.wakeIdle_intMask (s : State) : s.wakeIdle.intMask = s.intMask := rfl
@[simp] theorem State.wakeIdle_faultLog (s : State) : s.wakeIdle.faultLog = s.faultLog := rfl
@[simp] theorem State.wakeIdle_lenRsp (s : State) : s.wakeIdle.lenRsp = s.lenRsp := rfl
@[simp] theorem State.wakeIdle_regRsp (s : State) : s.wakeIdle.regRsp = s.regRsp := rfl
@[simp] theorem State.wakeIdle_sigFifo (s : State) : s.wakeIdle.sigFifo = s.sigFifo := rfl
@[simp] theorem State.wakeIdle_sigDone (s : State) : s.wakeIdle.sigDone = false := rfl
@[simp] theorem State.wakeIdle_demux (s : State) : s.wakeIdle.demux = s.demux := rfl
@[simp] theorem State.wakeIdle_hwait (s : State) : s.wakeIdle.hwait = .idleCheck := rfl
@[simp] theorem State.wakeIdle_mem (s : State) : s.wakeIdle.mem = s.mem := rfl
@[simp] theorem State.wakeIdle_live (s : State) : s.wakeIdle.live = s.live := rfl
@[simp] theorem State.wakeIdle_cfg (s : State) : s.wakeIdle.cfg = s.cfg := rfl
@[simp] theorem State.wakeIdle_held (s : State) : s.wakeIdle.held = s.held := rfl
@[simp] theorem State.wakeIdle_readData (s : State) : s.wakeIdle.readData = s.readData := rfl
@[simp] theorem State.wakeIdle_program (s : State) : s.wakeIdle.program = s.program := rfl
@[simp] theorem State.wakeIdle_sched (s : State) : s.wakeIdle.sched = s.sched := rfl
@[simp] theorem State.wakeIdle_sibPend (s : State) : s.wakeIdle.sibPend = s.sibPend := rfl
@[simp] theorem State.wakeIdle_draws (s : State) : s.wakeIdle.draws = s.draws := rfl

@[simp] theorem State.bindReg_fifo (i : RegId) (a size : Nat) (s : State) :
    (s.bindReg i a size).fifo = s.fifo := rfl
@[simp] theorem State.bindReg_busy (i : RegId) (a size : Nat) (s : State) :
    (s.bindReg i a size).busy = s.busy := rfl
@[simp] theorem State.bindReg_cur (i : RegId) (a size : Nat) (s : State) :
    (s.bindReg i a size).cur = s.cur := rfl
@[simp] theorem State.bindReg_lenTab (i : RegId) (a size : Nat) (s : State) :
    (s.bindReg i a size).lenTab = s.lenTab := rfl
@[simp] theorem State.bindReg_regTab (i : RegId) (a size : Nat) (s : State) :
    (s.bindReg i a size).regTab = s.regTab.set i.val ⟨true, BitVec.ofNat 32 a, BitVec.ofNat 32 size⟩ i.isLt := rfl
@[simp] theorem State.bindReg_carry (i : RegId) (a size : Nat) (s : State) :
    (s.bindReg i a size).carry = s.carry := rfl
@[simp] theorem State.bindReg_zero (i : RegId) (a size : Nat) (s : State) :
    (s.bindReg i a size).zero = s.zero := rfl
@[simp] theorem State.bindReg_intStat (i : RegId) (a size : Nat) (s : State) :
    (s.bindReg i a size).intStat = s.intStat := rfl
@[simp] theorem State.bindReg_intMask (i : RegId) (a size : Nat) (s : State) :
    (s.bindReg i a size).intMask = s.intMask := rfl
@[simp] theorem State.bindReg_faultLog (i : RegId) (a size : Nat) (s : State) :
    (s.bindReg i a size).faultLog = s.faultLog := rfl
@[simp] theorem State.bindReg_lenRsp (i : RegId) (a size : Nat) (s : State) :
    (s.bindReg i a size).lenRsp = s.lenRsp := rfl
@[simp] theorem State.bindReg_regRsp (i : RegId) (a size : Nat) (s : State) :
    (s.bindReg i a size).regRsp = regOk i := rfl
@[simp] theorem State.bindReg_sigFifo (i : RegId) (a size : Nat) (s : State) :
    (s.bindReg i a size).sigFifo = s.sigFifo := rfl
@[simp] theorem State.bindReg_sigDone (i : RegId) (a size : Nat) (s : State) :
    (s.bindReg i a size).sigDone = s.sigDone := rfl
@[simp] theorem State.bindReg_demux (i : RegId) (a size : Nat) (s : State) :
    (s.bindReg i a size).demux = s.demux := rfl
@[simp] theorem State.bindReg_hwait (i : RegId) (a size : Nat) (s : State) :
    (s.bindReg i a size).hwait = s.hwait := rfl
@[simp] theorem State.bindReg_mem (i : RegId) (a size : Nat) (s : State) :
    (s.bindReg i a size).mem = s.mem.write a size 0 := rfl
@[simp] theorem State.bindReg_live (i : RegId) (a size : Nat) (s : State) :
    (s.bindReg i a size).live = insertRegion a size s.live := rfl
@[simp] theorem State.bindReg_cfg (i : RegId) (a size : Nat) (s : State) :
    (s.bindReg i a size).cfg = s.cfg := rfl
@[simp] theorem State.bindReg_held (i : RegId) (a size : Nat) (s : State) :
    (s.bindReg i a size).held = s.held := rfl
@[simp] theorem State.bindReg_readData (i : RegId) (a size : Nat) (s : State) :
    (s.bindReg i a size).readData = s.readData := rfl
@[simp] theorem State.bindReg_program (i : RegId) (a size : Nat) (s : State) :
    (s.bindReg i a size).program = s.program := rfl
@[simp] theorem State.bindReg_sched (i : RegId) (a size : Nat) (s : State) :
    (s.bindReg i a size).sched = s.sched := rfl
@[simp] theorem State.bindReg_sibPend (i : RegId) (a size : Nat) (s : State) :
    (s.bindReg i a size).sibPend = s.sibPend := rfl
@[simp] theorem State.bindReg_draws (i : RegId) (a size : Nat) (s : State) :
    (s.bindReg i a size).draws = s.draws := rfl

@[simp] theorem State.unbindReg_fifo (i : RegId) (s : State) : (s.unbindReg i).fifo = s.fifo := rfl
@[simp] theorem State.unbindReg_busy (i : RegId) (s : State) : (s.unbindReg i).busy = s.busy := rfl
@[simp] theorem State.unbindReg_cur (i : RegId) (s : State) : (s.unbindReg i).cur = s.cur := rfl
@[simp] theorem State.unbindReg_lenTab (i : RegId) (s : State) :
    (s.unbindReg i).lenTab = s.lenTab := rfl
@[simp] theorem State.unbindReg_regTab (i : RegId) (s : State) :
    (s.unbindReg i).regTab = s.regTab.set i.val ⟨false, 0#32, 0#32⟩ i.isLt := rfl
@[simp] theorem State.unbindReg_carry (i : RegId) (s : State) :
    (s.unbindReg i).carry = s.carry := rfl
@[simp] theorem State.unbindReg_zero (i : RegId) (s : State) : (s.unbindReg i).zero = s.zero := rfl
@[simp] theorem State.unbindReg_intStat (i : RegId) (s : State) :
    (s.unbindReg i).intStat = s.intStat := rfl
@[simp] theorem State.unbindReg_intMask (i : RegId) (s : State) :
    (s.unbindReg i).intMask = s.intMask := rfl
@[simp] theorem State.unbindReg_faultLog (i : RegId) (s : State) :
    (s.unbindReg i).faultLog = s.faultLog := rfl
@[simp] theorem State.unbindReg_lenRsp (i : RegId) (s : State) :
    (s.unbindReg i).lenRsp = s.lenRsp := rfl
@[simp] theorem State.unbindReg_regRsp (i : RegId) (s : State) :
    (s.unbindReg i).regRsp = regOk i := rfl
@[simp] theorem State.unbindReg_sigFifo (i : RegId) (s : State) :
    (s.unbindReg i).sigFifo = s.sigFifo := rfl
@[simp] theorem State.unbindReg_sigDone (i : RegId) (s : State) :
    (s.unbindReg i).sigDone = s.sigDone := rfl
@[simp] theorem State.unbindReg_demux (i : RegId) (s : State) :
    (s.unbindReg i).demux = s.demux := rfl
@[simp] theorem State.unbindReg_hwait (i : RegId) (s : State) :
    (s.unbindReg i).hwait = s.hwait := rfl
@[simp] theorem State.unbindReg_mem (i : RegId) (s : State) :
    (s.unbindReg i).mem = s.mem.write (s.reg i).addr.toNat (s.reg i).size.toNat 0 := rfl
@[simp] theorem State.unbindReg_live (i : RegId) (s : State) :
    (s.unbindReg i).live = removeRegion (s.reg i).addr.toNat s.live := rfl
@[simp] theorem State.unbindReg_cfg (i : RegId) (s : State) : (s.unbindReg i).cfg = s.cfg := rfl
@[simp] theorem State.unbindReg_held (i : RegId) (s : State) : (s.unbindReg i).held = s.held := rfl
@[simp] theorem State.unbindReg_readData (i : RegId) (s : State) :
    (s.unbindReg i).readData = s.readData := rfl
@[simp] theorem State.unbindReg_program (i : RegId) (s : State) :
    (s.unbindReg i).program = s.program := rfl
@[simp] theorem State.unbindReg_sched (i : RegId) (s : State) :
    (s.unbindReg i).sched = s.sched := rfl
@[simp] theorem State.unbindReg_sibPend (i : RegId) (s : State) :
    (s.unbindReg i).sibPend = s.sibPend := rfl
@[simp] theorem State.unbindReg_draws (i : RegId) (s : State) :
    (s.unbindReg i).draws = s.draws := rfl

end Sys2Proof.Machine
end

