-- ==== Sys2Proof/Laws/Allocators.lean ====
section
/-! SUPPORT. What the searches of the two allocators and SramStore answer, and the set of live
regions after one is added or removed. -/

namespace Sys2Proof.Machine

open Sys2Proof.Config

theorem isIdle_iff {s : State} : s.isIdle = true ↔ s.fifo = [] ∧ s.busy = false := by
  simp [State.isIdle, State.count]

theorem not_isIdle_iff {s : State} : s.isIdle = false ↔ s.fifo ≠ [] ∨ s.busy = true := by
  rw [← Bool.not_eq_true, isIdle_iff, not_and_or]
  simp

theorem room_iff {s : State} : s.room = true ↔ s.fifo.length < s.cfg.fifoDepth := by
  unfold State.room
  rw [decide_eq_true_eq]
  rfl

/-! ## Length slots -/

theorem matchingSlot_none {s : State} {bits full : Nat} :
    s.matchingSlot bits full = none ↔
      ∀ j : SlotId, (s.slot j).occ = true →
        ¬ ((s.slot j).bits.toNat = bits ∧ (s.slot j).full.toNat = full) := by
  unfold State.matchingSlot
  rw [List.find?_eq_none]
  constructor
  · intro h j ho hp
    exact h j (List.mem_finRange j) (by simp [ho, hp])
  · intro h j _ hp
    simp only [Bool.and_eq_true, decide_eq_true_eq] at hp
    exact h j hp.1.1 ⟨hp.1.2, hp.2⟩

theorem matchingSlot_some {s : State} {bits full : Nat} {k : SlotId}
    (h : s.matchingSlot bits full = some k) :
    (s.slot k).occ = true ∧ (s.slot k).bits.toNat = bits ∧ (s.slot k).full.toNat = full := by
  have := List.find?_some h
  simp only [Bool.and_eq_true, decide_eq_true_eq] at this
  exact ⟨this.1.1, this.1.2, this.2⟩

/-- A search among the ids answers the least one that satisfies the test. -/
theorem find_finRange {n : Nat} {p : Fin n → Bool} {k : Fin n} :
    (List.finRange n).find? p = some k ↔ p k = true ∧ ∀ j, j < k → p j = false := by
  rw [List.find?_eq_some_iff_getElem]
  constructor
  · rintro ⟨hp, i, hi, hk, hlt⟩
    rw [List.getElem_finRange] at hk
    refine ⟨hp, fun j hj => ?_⟩
    have hji : j.val < i := by
      rw [← hk] at hj
      exact hj
    have := hlt j.val hji
    rw [List.getElem_finRange] at this
    exact Bool.not_eq_true' _ |>.mp this
  · rintro ⟨hp, hlt⟩
    refine ⟨hp, k.val, by simp, by simp, fun j hj => ?_⟩
    rw [List.getElem_finRange, Bool.not_eq_true']
    exact hlt _ hj

theorem freeSlot_some {s : State} {k : SlotId} :
    s.freeSlot = some k ↔
      (s.slot k).occ = false ∧ ∀ j : SlotId, j < k → (s.slot j).occ = true := by
  unfold State.freeSlot
  rw [find_finRange]
  simp

theorem freeSlot_none {s : State} : s.freeSlot = none ↔ ∀ j : SlotId, (s.slot j).occ = true := by
  unfold State.freeSlot
  rw [List.find?_eq_none]
  simp

/-- The stored pair fits its fields and is consistent (R21, R93 to R95). -/
theorem lenPair_bounds (cls : LenClass) {b : Nat} (hb : b < 2 ^ 20) :
    lenBits cls b < 2 ^ 22 ∧ lenFull cls b < 2 ^ 22 ∧ lenFull cls b % 64 = 0 ∧
    64 ≤ lenFull cls b ∧ lenBits cls b ≤ lenFull cls b := by
  cases cls <;> simp only [lenFull, lenBits, roundUp64] <;> omega

/-! ## Register ids -/

theorem isReserved_iff {i : RegId} : isReserved i = true ↔ 30 ≤ i.val := by
  revert i; decide

theorem freeReg_some {s : State} {i : RegId} (h : s.freeReg = some i) :
    isReserved i = false ∧ (s.reg i).occ = false ∧
      ∀ j, j < i → isReserved j = true ∨ (s.reg j).occ = true := by
  unfold State.freeReg at h
  rw [find_finRange] at h
  obtain ⟨hp, hlt⟩ := h
  simp only [Bool.and_eq_true, Bool.not_eq_true'] at hp
  refine ⟨hp.1, hp.2, fun j hj => ?_⟩
  have := hlt j hj
  simpa [or_iff_not_imp_left] using this

theorem freeReg_of_least {s : State} {i : RegId} (hi : i.val < 30) (hf : (s.reg i).occ = false)
    (hl : ∀ j, j < i → (s.reg j).occ = true) : s.freeReg = some i := by
  unfold State.freeReg
  rw [find_finRange]
  have hr : isReserved i = false := by
    rw [← Bool.not_eq_true, isReserved_iff]; omega
  exact ⟨by simp [hr, hf], fun j hj => by simp [hl j hj]⟩

theorem freeReg_none {s : State} (h : ∀ i : RegId, i.val < 30 → (s.reg i).occ = true) :
    s.freeReg = none := by
  unfold State.freeReg
  rw [List.find?_eq_none]
  intro i _ hp
  simp only [Bool.and_eq_true, Bool.not_eq_true'] at hp
  have hr : ¬ 30 ≤ i.val := by rw [← isReserved_iff, hp.1]; simp
  rw [h i (by omega)] at hp
  exact absurd hp.2 (by simp)

theorem regOk_eq (i : RegId) : regOk i = BitVec.ofNat 32 i.val := by
  revert i; decide

/-! ## SramStore (R46) -/

/-- What SramStore answers meets its contract. -/
theorem sramAlloc_some {s : State} {size a : Nat} (h : s.sramAlloc size = some a) :
    a % 8 = 0 ∧ a + size ≤ s.cfg.sramSize ∧
      ∀ r ∈ s.live, a + size ≤ r.1 ∨ r.1 + r.2 ≤ a := by
  have hl : legalRegion s.cfg s.live size a = true := by
    unfold State.sramAlloc at h
    split at h
    · split at h
      · next hl => cases h; exact hl
      · cases h
    · cases h
  simp only [legalRegion, Bool.and_eq_true, decide_eq_true_eq, List.all_eq_true, disjointFrom,
    Bool.or_eq_true] at hl
  exact ⟨hl.1.1, hl.1.2, hl.2⟩

theorem mem_insertRegion {a size : Nat} {live : List (Nat × Nat)} {r : Nat × Nat} :
    r ∈ insertRegion a size live ↔ r = (a, size) ∨ r ∈ live := by
  induction live with
  | nil => simp [insertRegion]
  | cons x rest ih =>
    unfold insertRegion
    split
    · simp
    · simp only [List.mem_cons, ih]
      tauto

/-- The live set stays in rising order without overlaps when a disjoint region is added. -/
theorem insertRegion_pairwise {a size : Nat} {live : List (Nat × Nat)}
    (h : live.Pairwise (fun x y => x.1 + x.2 ≤ y.1)) (hp : ∀ r ∈ live, 0 < r.2) (hs : 0 < size)
    (hd : ∀ r ∈ live, a + size ≤ r.1 ∨ r.1 + r.2 ≤ a) :
    (insertRegion a size live).Pairwise (fun x y => x.1 + x.2 ≤ y.1) := by
  induction live with
  | nil => simp [insertRegion]
  | cons x rest ih =>
    rw [List.pairwise_cons] at h
    have hdx := hd x List.mem_cons_self
    have hpx := hp x List.mem_cons_self
    unfold insertRegion
    split
    · rw [List.pairwise_cons, List.pairwise_cons]
      refine ⟨fun y hy => ?_, h⟩
      rcases List.mem_cons.mp hy with rfl | hy
      · simp only; omega
      · have := h.1 y hy
        simp only; omega
    · rw [List.pairwise_cons]
      refine ⟨fun y hy => ?_, ih h.2 (fun r hr => hp r (List.mem_cons_of_mem _ hr))
        (fun r hr => hd r (List.mem_cons_of_mem _ hr))⟩
      rcases mem_insertRegion.mp hy with rfl | hy
      · simp only; omega
      · exact h.1 y hy

theorem mem_removeRegion {a : Nat} {live : List (Nat × Nat)} {r : Nat × Nat} :
    r ∈ removeRegion a live ↔ r ∈ live ∧ r.1 ≠ a := by
  simp [removeRegion]

/-- Adding a region and removing it again gives the same live set. -/
theorem removeRegion_insertRegion {a size : Nat} {live : List (Nat × Nat)}
    (h : ∀ r ∈ live, r.1 ≠ a) : removeRegion a (insertRegion a size live) = live := by
  have hk : removeRegion a live = live := by
    unfold removeRegion
    rw [List.filter_eq_self]
    intro r hr
    simpa using h r hr
  induction live with
  | nil => simp [insertRegion, removeRegion]
  | cons x rest ih =>
    have hx := h x List.mem_cons_self
    have hr : ∀ r ∈ rest, r.1 ≠ a := fun r hr => h r (List.mem_cons_of_mem _ hr)
    unfold insertRegion
    split
    · unfold removeRegion at hk ⊢
      rw [List.filter_cons_of_neg (by simp)]
      exact hk
    · unfold removeRegion at hk ih ⊢
      rw [List.filter_cons_of_pos (by simpa using hx)] at hk ⊢
      rw [ih hr (by simpa using hk)]

end Sys2Proof.Machine
end

