-- ==== Sys2Proof/Laws/Memory.lean ====
section
/-! SUPPORT. What the arena operations do: reads after writes, the canonical form kept, the bounds of
the listed offsets kept, and canonical arenas determined by their bytes. -/

namespace Sys2Proof.Machine.Memory

@[simp] theorem readByte_nil (a : Nat) : readByte [] a = blank := rfl

theorem readByte_cons (k : Nat) (v : Byte) (m : Memory) (a : Nat) :
    readByte ((k, v) :: m) a = if k = a then v else readByte m a := rfl

theorem wf_nil : wf [] := ⟨List.Pairwise.nil, by simp⟩

theorem wf_tail {e : Host.Cell} {m : Memory} (h : wf (e :: m)) : wf m :=
  ⟨(List.pairwise_cons.mp h.1).2, fun c hc => h.2 c (List.mem_cons_of_mem e hc)⟩

theorem wf_head_lt {e : Host.Cell} {m : Memory} (h : wf (e :: m)) : ∀ c ∈ m, e.1 < c.1 :=
  (List.pairwise_cons.mp h.1).1

/-- An offset below every listed one is not listed. -/
theorem readByte_of_lt {m : Memory} {a : Nat} (h : ∀ c ∈ m, a < c.1) : readByte m a = blank := by
  induction m with
  | nil => rfl
  | cons e m ih =>
    obtain ⟨k, v⟩ := e
    have hk : a < k := h (k, v) (by simp)
    rw [readByte_cons, if_neg (by omega)]
    exact ih (fun c hc => h c (List.mem_cons_of_mem _ hc))

/-- A read after a write of one byte, on a canonical arena. -/
theorem readByte_writeByte {m : Memory} (hm : wf m) (a : Nat) (v : Byte) (b : Nat) :
    readByte (writeByte m a v) b = if b = a then v else readByte m b := by
  induction m with
  | nil =>
    unfold writeByte
    by_cases hv : v = blank
    · rw [if_pos hv]; split <;> simp [hv]
    · rw [if_neg hv, readByte_cons]
      by_cases hb : b = a
      · simp [hb]
      · rw [if_neg hb, if_neg (by omega)]
  | cons e m ih =>
    obtain ⟨k, x⟩ := e
    have ih := ih (wf_tail hm)
    unfold writeByte
    by_cases h1 : a < k
    · rw [if_pos h1]
      have hlt : ∀ c ∈ (k, x) :: m, a < c.1 := by
        intro c hc
        rcases List.mem_cons.mp hc with rfl | hc
        · exact h1
        · exact lt_trans h1 (wf_head_lt hm c hc)
      by_cases hv : v = blank
      · rw [if_pos hv]
        by_cases hb : b = a
        · rw [if_pos hb, hb, readByte_of_lt hlt, hv]
        · rw [if_neg hb]
      · rw [if_neg hv, readByte_cons]
        by_cases hb : b = a
        · rw [if_pos hb, if_pos hb.symm]
        · rw [if_neg hb, if_neg (fun h => hb h.symm)]
    · rw [if_neg h1]
      by_cases h2 : a = k
      · rw [if_pos h2]
        subst h2
        by_cases hv : v = blank
        · rw [if_pos hv, readByte_cons]
          by_cases hb : b = a
          · rw [if_pos hb, hb, readByte_of_lt (wf_head_lt hm), hv]
          · rw [if_neg hb, if_neg (fun h => hb h.symm)]
        · rw [if_neg hv, readByte_cons, readByte_cons]
          by_cases hb : b = a
          · rw [if_pos hb, if_pos hb.symm]
          · rw [if_neg hb, if_neg (fun h => hb h.symm), if_neg (fun h => hb h.symm)]
      · rw [if_neg h2, readByte_cons, readByte_cons, ih]
        by_cases hb : b = a
        · rw [if_pos hb, if_neg (by omega), if_pos hb]
        · rw [if_neg hb, if_neg hb]

/-- A write of one byte leaves every other byte as it reads, on any arena. -/
theorem readByte_writeByte_ne (m : Memory) {a b : Nat} (v : Byte) (h : b ≠ a) :
    readByte (writeByte m a v) b = readByte m b := by
  induction m with
  | nil =>
    unfold writeByte
    split
    · rfl
    · rw [readByte_cons, if_neg (Ne.symm h)]
  | cons e m ih =>
    obtain ⟨k, x⟩ := e
    unfold writeByte
    split
    · split
      · rfl
      · rw [readByte_cons, if_neg (Ne.symm h)]
    · split
      · next hk =>
        subst hk
        split
        · rw [readByte_cons, if_neg (Ne.symm h)]
        · rw [readByte_cons, readByte_cons, if_neg (Ne.symm h), if_neg (Ne.symm h)]
      · rw [readByte_cons, readByte_cons, ih]

theorem mem_writeByte {m : Memory} {a : Nat} {v : Byte} {c : Host.Cell}
    (h : c ∈ writeByte m a v) : c ∈ m ∨ (c = (a, v) ∧ v ≠ blank) := by
  induction m with
  | nil =>
    unfold writeByte at h
    split at h
    · simp at h
    · next hv => exact .inr ⟨by simpa using h, hv⟩
  | cons e m ih =>
    obtain ⟨k, x⟩ := e
    unfold writeByte at h
    split at h
    · split at h
      · exact .inl h
      · next hv =>
        rcases List.mem_cons.mp h with h | h
        · exact .inr ⟨h, hv⟩
        · exact .inl h
    · split at h
      · split at h
        · exact .inl (List.mem_cons_of_mem _ h)
        · next hv =>
          rcases List.mem_cons.mp h with h | h
          · exact .inr ⟨h, hv⟩
          · exact .inl (List.mem_cons_of_mem _ h)
      · rcases List.mem_cons.mp h with h | h
        · exact .inl (h ▸ List.mem_cons_self)
        · rcases ih h with h | h
          · exact .inl (List.mem_cons_of_mem _ h)
          · exact .inr h

/-- A write of one byte keeps the canonical form. -/
theorem writeByte_wf {m : Memory} (hm : wf m) (a : Nat) (v : Byte) : wf (writeByte m a v) := by
  refine ⟨?_, fun c hc => ?_⟩
  · induction m with
    | nil => unfold writeByte; split <;> simp
    | cons e m ih =>
      obtain ⟨k, x⟩ := e
      have hlt := wf_head_lt hm
      have ih := ih (wf_tail hm)
      unfold writeByte
      split
      · next h1 =>
        split
        · exact hm.1
        · refine List.pairwise_cons.mpr ⟨fun c hc => ?_, hm.1⟩
          rcases List.mem_cons.mp hc with rfl | hc
          · exact h1
          · exact lt_trans h1 (hlt c hc)
      · split
        · next h2 =>
          split
          · exact (wf_tail hm).1
          · exact List.pairwise_cons.mpr ⟨fun c hc => h2 ▸ hlt c hc, (wf_tail hm).1⟩
        · next h1 h2 =>
          refine List.pairwise_cons.mpr ⟨fun c hc => ?_, ih⟩
          rcases mem_writeByte hc with hc | ⟨rfl, -⟩
          · exact hlt c hc
          · show k < a; omega
  · rcases mem_writeByte hc with hc | ⟨rfl, hv⟩
    · exact hm.2 c hc
    · exact hv

/-- `MemWrite` keeps the canonical form. -/
theorem write_wf {m : Memory} (hm : wf m) (a n v : Nat) : wf (write m a n v) := by
  induction n generalizing m a v with
  | zero => exact hm
  | succ n ih => exact ih (writeByte_wf hm a _) (a + 1) (v / 256)

/-- `MemWrite` lists no offset but those listed before and those it writes. -/
theorem mem_write {m : Memory} {a n v : Nat} {c : Host.Cell} (h : c ∈ write m a n v) :
    c ∈ m ∨ (a ≤ c.1 ∧ c.1 < a + n) := by
  induction n generalizing m a v with
  | zero => exact .inl h
  | succ n ih =>
    rcases ih h with h | h
    · rcases mem_writeByte h with h | ⟨rfl, -⟩
      · exact .inl h
      · exact .inr ⟨le_refl _, by simp⟩
    · exact .inr ⟨by omega, by omega⟩

/-- `MemWrite` leaves every byte outside its range as it reads, on any arena. -/
theorem readByte_write_outside (m : Memory) {a n b : Nat} (v : Nat) (h : b < a ∨ a + n ≤ b) :
    readByte (write m a n v) b = readByte m b := by
  induction n generalizing m a v with
  | zero => rfl
  | succ n ih =>
    show readByte (write (writeByte m a _) (a + 1) n (v / 256)) b = _
    rw [ih _ _ (by omega), readByte_writeByte_ne _ _ (by omega)]

/-- `MemWrite` sets the bytes of its range. -/
theorem readByte_write_inside {m : Memory} (hm : wf m) (a n v k : Nat) (h : k < n) :
    readByte (write m a n v) (a + k) = BitVec.ofNat 8 (v / 256 ^ k) := by
  induction n generalizing m a v k with
  | zero => omega
  | succ n ih =>
    show readByte (write (writeByte m a _) (a + 1) n (v / 256)) (a + k) = _
    cases k with
    | zero =>
      rw [readByte_write_outside _ _ (by omega), Nat.add_zero, readByte_writeByte hm, if_pos rfl]
      simp
    | succ k =>
      have := ih (writeByte_wf hm a (BitVec.ofNat 8 v)) (a + 1) (v / 256) k (by omega)
      rw [show a + (k + 1) = a + 1 + k by omega, this, Nat.div_div_eq_div_mul, Nat.pow_succ']

theorem read_succ (m : Memory) (a n : Nat) :
    read m a (n + 1) = (readByte m a).toNat + 256 * read m (a + 1) n := rfl

/-- `MemRead` depends on the bytes of its range alone. -/
theorem read_congr {m m' : Memory} {a n : Nat}
    (h : ∀ k, k < n → readByte m (a + k) = readByte m' (a + k)) : read m a n = read m' a n := by
  induction n generalizing a with
  | zero => rfl
  | succ n ih =>
    have h0 : readByte m a = readByte m' a := h 0 (by omega)
    rw [read_succ, read_succ, h0, ih (fun k hk => ?_)]
    have := h (k + 1) (by omega)
    rwa [show a + (k + 1) = a + 1 + k by omega] at this

/-- What `MemWrite` stored is what `MemRead` gives back, modulo the width. -/
theorem read_write_same {m : Memory} (hm : wf m) (a n v : Nat) :
    read (write m a n v) a n = v % 256 ^ n := by
  induction n generalizing m a v with
  | zero => simp [read, Nat.mod_one]
  | succ n ih =>
    have h0 : readByte (write m a (n + 1) v) a = BitVec.ofNat 8 (v / 256 ^ 0) :=
      readByte_write_inside hm a (n + 1) v 0 (by omega)
    rw [read_succ, h0]
    show _ + 256 * read (write (writeByte m a _) (a + 1) n (v / 256)) (a + 1) n = _
    rw [ih (writeByte_wf hm a _), Nat.pow_succ', Nat.mod_mul]
    simp

theorem read_lt (m : Memory) (a n : Nat) : read m a n < 256 ^ n := by
  induction n generalizing a with
  | zero => simp [read]
  | succ n ih =>
    rw [read_succ, Nat.pow_succ']
    have := ih (a + 1)
    have := (readByte m a).isLt
    omega

theorem write_zero_byte {m : Memory} (hm : wf m) (a n k : Nat) (h : k < n) :
    readByte (write m a n 0) (a + k) = 0#8 := by
  rw [readByte_write_inside hm a n 0 k h]; simp

/-- Canonical arenas that read alike at every offset are equal data. -/
theorem eq_of_readByte_eq {m m' : Memory} (hm : wf m) (hm' : wf m')
    (h : ∀ a, readByte m a = readByte m' a) : m = m' := by
  induction m generalizing m' with
  | nil =>
    cases m' with
    | nil => rfl
    | cons e m' =>
      have := h e.1
      rw [readByte_nil, readByte_cons, if_pos rfl] at this
      exact absurd this.symm (hm'.2 e List.mem_cons_self)
  | cons e m ih =>
    cases m' with
    | nil =>
      have := h e.1
      rw [readByte_nil, readByte_cons, if_pos rfl] at this
      exact absurd this (hm.2 e List.mem_cons_self)
    | cons e' m' =>
      obtain ⟨k, x⟩ := e
      obtain ⟨k', x'⟩ := e'
      have hx : x ≠ blank := hm.2 (k, x) List.mem_cons_self
      have hx' : x' ≠ blank := hm'.2 (k', x') List.mem_cons_self
      have hk : k = k' := by
        rcases Nat.lt_trichotomy k k' with hlt | heq | hlt
        · have := h k
          rw [readByte_cons, if_pos rfl, readByte_cons, if_neg (by omega),
            readByte_of_lt (fun c hc => lt_trans hlt (wf_head_lt hm' c hc))] at this
          exact absurd this hx
        · exact heq
        · have := h k'
          rw [readByte_cons, if_neg (by omega), readByte_cons, if_pos rfl,
            readByte_of_lt (fun c hc => lt_trans hlt (wf_head_lt hm c hc))] at this
          exact absurd this.symm hx'
      subst hk
      have hv : x = x' := by simpa [readByte_cons] using h k
      subst hv
      rw [ih (wf_tail hm) (wf_tail hm') (fun a => ?_)]
      by_cases ha : k = a
      · subst ha
        rw [readByte_of_lt (wf_head_lt hm), readByte_of_lt (wf_head_lt hm')]
      · simpa [readByte_cons, ha] using h a

end Sys2Proof.Machine.Memory
end

