-- ==== Sys2Proof/Laws/Engine.lean ====
section
/-! SUPPORT. What the checks, the stores and RETIRE do: one lemma for each, which later proofs cite
instead of unfolding them. -/

namespace Sys2Proof

open Sys2Proof.Machine

/-- The datapath of each opcode. -/
def Opcode.alu : Opcode → Config.AluArgs → AluOut
  | .add    => aluAdd
  | .sub    => aluSub
  | .cmp    => aluCmp
  | .shift  => aluShift
  | .logic  => aluLogic
  | .div    => aluDiv
  | .reduce => aluReduce
  | .modadd => aluModadd
  | .modsub => aluModsub
  | .modmul => aluModmul
  | .modexp => aluModexp
  | .modinv => aluModinv

end Sys2Proof

namespace Sys2Proof.Machine

open Sys2Proof.Config

/-- Every command is a RETIRE with its own datapath. -/
theorem exec_command (op : Opcode) (c : Cmd) (s : State) :
    exec (op.instr c) s = retire op op.alu c s := by
  cases op <;> rfl

/-- No opcode has a second output (R122). -/
theorem alu_second (op : Opcode) (x : AluArgs) : (op.alu x).second = [] := by
  cases op <;> rfl

/-- The faults an opcode can raise: none, or its own one (R129, R133 to R135). -/
theorem alu_faults (op : Opcode) (x : AluArgs) :
    (op.alu x).faults = [] ∨ (op = .div ∧ (op.alu x).faults = [.div0]) ∨
    (op = .modinv ∧ (op.alu x).faults = [.noInv]) ∨
    ((op = .modmul ∨ op = .modexp) ∧ (op.alu x).faults = [.mulRed]) := by
  cases op <;>
    simp [Opcode.alu, aluAdd, aluSub, aluCmp, aluShift, aluLogic, aluDiv, aluReduce, aluModadd,
      aluModsub, aluModmul, aluModexp, aluModinv, aluParameter] <;>
    omega

/-! ## The checks of R49 -/

theorem checkReg_of_fits {s : State} {i : RegId} {lb : Nat} (h : s.fits i lb) :
    s.checkReg i lb = .ok () := by
  unfold State.checkReg
  rw [if_neg (by simp [h.1]), if_neg (by omega)]

theorem fits_of_checkReg {s : State} {i : RegId} {lb : Nat} {u : Unit}
    (h : s.checkReg i lb = .ok u) : s.fits i lb := by
  unfold State.checkReg at h
  split at h
  · cases h
  · split at h
    · cases h
    · next h1 h2 => exact ⟨by simpa using h1, by omega⟩

theorem regVal_of_fits {s : State} {i : RegId} {lb : Nat} (h : s.fits i lb) :
    s.regVal i lb = .ok (s.regBytes i lb) := by
  unfold State.regVal; rw [checkReg_of_fits h]

theorem regVal_ok {s : State} {i : RegId} {lb v : Nat} (h : s.regVal i lb = .ok v) :
    s.fits i lb ∧ v = s.regBytes i lb := by
  unfold State.regVal at h
  split at h
  · cases h
  · next hc => cases h; exact ⟨fits_of_checkReg hc, rfl⟩

theorem regStore_of_fits {s : State} {i : RegId} {lb : Nat} (v : Nat) (h : s.fits i lb) :
    s.regStore i lb v = .ok (s.putReg i lb v) := by
  unfold State.regStore; rw [checkReg_of_fits h]

theorem regStore_ok {s t : State} {i : RegId} {lb v : Nat} (h : s.regStore i lb v = .ok t) :
    s.fits i lb ∧ t = s.putReg i lb v := by
  unfold State.regStore at h
  split at h
  · cases h
  · next hc => cases h; exact ⟨fits_of_checkReg hc, rfl⟩

theorem checkReg_unbound {s : State} {i : RegId} (lb : Nat) (h : (s.reg i).occ = false) :
    s.checkReg i lb = .error .unboundRegister := by
  unfold State.checkReg; rw [if_pos h]

theorem checkReg_small {s : State} {i : RegId} {lb : Nat} (h : (s.reg i).occ = true)
    (h' : 8 * (s.reg i).size.toNat < lb) : s.checkReg i lb = .error .registerTooSmall := by
  unfold State.checkReg; rw [if_neg (by simp [h]), if_pos h']

/-! ## What RETIRE reads -/

theorem readContext_of_fits {s : State} {lb : Nat} {js : List RegId}
    (h : ∀ j ∈ js, s.fits j lb) :
    s.readContext lb js = .ok (js.map (fun j => (j, s.regBytes j lb))) := by
  induction js with
  | nil => rfl
  | cons j js ih =>
    unfold State.readContext
    rw [regVal_of_fits (h j List.mem_cons_self),
      ih (fun k hk => h k (List.mem_cons_of_mem _ hk))]
    rfl

theorem readContext_ok {s : State} {lb : Nat} {js : List RegId} {ctx : List (RegId × Nat)}
    (h : s.readContext lb js = .ok ctx) :
    (∀ j ∈ js, s.fits j lb) ∧ ctx = js.map (fun j => (j, s.regBytes j lb)) := by
  induction js generalizing ctx with
  | nil => cases h; simp
  | cons j js ih =>
    unfold State.readContext at h
    split at h
    · cases h
    · next hv =>
      split at h
      · cases h
      · next hc =>
        cases h
        obtain ⟨h1, rfl⟩ := regVal_ok hv
        obtain ⟨h2, rfl⟩ := ih hc
        exact ⟨by simpa using ⟨h1, h2⟩, rfl⟩

theorem operandB_ok {s : State} {c : Cmd} {b : Nat} (h : s.operandB c (s.cmdLb c) = .ok b) :
    b = s.valB c := by
  unfold State.operandB at h
  unfold State.valB
  cases hb : c.bImm with
  | true => rw [hb] at h; cases h; rfl
  | false => rw [hb] at h; exact (regVal_ok h).2

/-- A command that is ready gets the arguments of `aluArgs`. -/
theorem gather_of_ready {s : State} {op : Opcode} {c : Cmd} (h : s.ready op c) :
    gather op c s = .ok (s.aluArgs op c) := by
  obtain ⟨hs, hr⟩ := h
  have hA : s.fits c.opA (s.cmdLb c) := hr _ (by simp [checkedRegs])
  have hI : ∀ j ∈ implicitReads op, s.fits j (s.cmdLb c) :=
    fun j hj => hr _ (by simp [checkedRegs, hj])
  have hB : s.operandB c (s.cmdLb c) = .ok (s.valB c) := by
    unfold State.operandB State.valB
    cases hb : c.bImm with
    | true => rfl
    | false => exact regVal_of_fits (hr _ (by simp [checkedRegs, hb]))
  have hR : (if writesResult op c then s.checkReg c.res (s.cmdLb c) else .ok ()) = .ok () := by
    split
    · next hw => exact checkReg_of_fits (hr _ (by simp [checkedRegs, hw]))
    · rfl
  unfold State.cmdLb at *
  unfold gather
  rw [if_neg (by simp [hs])]
  simp only [regVal_of_fits hA, hB, readContext_of_fits hI, hR]
  rfl

/-- What a successful `gather` says. -/
theorem gather_ok {s : State} {op : Opcode} {c : Cmd} {x : AluArgs} (h : gather op c s = .ok x) :
    (s.slot c.len).occ = true ∧ x = s.aluArgs op c := by
  unfold gather at h
  split at h
  · cases h
  · next hs =>
    refine ⟨by simpa using hs, ?_⟩
    simp only at h
    split at h
    · cases h
    · next hA =>
      split at h
      · cases h
      · next hB =>
        split at h
        · cases h
        · next hC =>
          split at h
          · cases h
          · cases h
            obtain ⟨-, rfl⟩ := regVal_ok hA
            obtain ⟨-, rfl⟩ := readContext_ok hC
            rw [operandB_ok hB]
            rfl

/-! ## What RETIRE writes -/

theorem putReg_eq (s : State) (i : RegId) (lb v : Nat) :
    s.putReg i lb v =
      { s with mem := s.mem.write (s.reg i).addr.toNat (lb / 8) (v % 2 ^ lb) } := rfl

theorem storeClobbers_ok {lb : Nat} {js : List RegId} {s t : State}
    (h : storeClobbers lb s js = .ok t) :
    ∃ m d, t = { s with mem := m, draws := d } ∧ (∀ j ∈ js, s.fits j lb) ∧
      (s.mem.wf → m.wf) ∧
      (∀ c ∈ m, c ∈ s.mem ∨ ∃ j ∈ js, (s.reg j).addr.toNat ≤ c.1 ∧
        c.1 < (s.reg j).addr.toNat + lb / 8) ∧
      ∀ a, (∀ j ∈ js, a < (s.reg j).addr.toNat ∨ (s.reg j).addr.toNat + lb / 8 ≤ a) →
        m.readByte a = s.mem.readByte a := by
  induction js generalizing s with
  | nil =>
    cases h
    exact ⟨t.mem, t.draws, rfl, by simp, id, fun c hc => .inl hc, fun _ _ => rfl⟩
  | cons j js ih =>
    unfold storeClobbers at h
    split at h
    · cases h
    · next hst =>
      obtain ⟨hf, rfl⟩ := regStore_ok hst
      obtain ⟨m, d, rfl, hfs, hwf, hin, hout⟩ := ih h
      refine ⟨m, d, rfl, ?_, fun hw => hwf (Memory.write_wf hw _ _ _), fun c hc => ?_, fun a ha => ?_⟩
      · intro k hk
        rcases List.mem_cons.mp hk with rfl | hk
        · exact hf
        · exact hfs k hk
      · rcases hin c hc with hc | ⟨k, hk, hc⟩
        · rcases Memory.mem_write hc with hc | hc
          · exact .inl hc
          · exact .inr ⟨j, by simp, hc⟩
        · exact .inr ⟨k, by simp [hk], hc⟩
      · rw [hout a (fun k hk => ha k (List.mem_cons_of_mem _ hk))]
        exact Memory.readByte_write_outside _ _ (ha j List.mem_cons_self)

/-- Everything `commit` can do when there is no second output. -/
theorem commit_ok {op : Opcode} {c : Cmd} {lb : Nat} {out : AluOut} {s t : State}
    (h2 : out.second = []) (h : commit op c lb out s = .ok t) :
    ∃ m d, t = finish c out { s with mem := m, draws := d } ∧
      (writesResult op c = true → s.fits c.res lb) ∧ (∀ j ∈ clobbers op, s.fits j lb) ∧
      (s.mem.wf → m.wf) ∧
      (∀ e ∈ m, e ∈ s.mem ∨ (writesResult op c = true ∧ (s.reg c.res).addr.toNat ≤ e.1 ∧
        e.1 < (s.reg c.res).addr.toNat + lb / 8) ∨ ∃ j ∈ clobbers op,
        (s.reg j).addr.toNat ≤ e.1 ∧ e.1 < (s.reg j).addr.toNat + lb / 8) ∧
      ∀ a, (writesResult op c = true → a < (s.reg c.res).addr.toNat ∨
          (s.reg c.res).addr.toNat + lb / 8 ≤ a) →
        (∀ j ∈ clobbers op, a < (s.reg j).addr.toNat ∨ (s.reg j).addr.toNat + lb / 8 ≤ a) →
        m.readByte a = s.mem.readByte a := by
  unfold commit at h
  split at h
  · cases h
  · next hst =>
    rw [h2] at h
    simp only [storeSecond] at h
    split at h
    · cases h
    · next hcl =>
      cases h
      split at hst
      · next hw =>
        obtain ⟨hf, rfl⟩ := regStore_ok hst
        obtain ⟨m, d, rfl, hfs, hwf, hin, hout⟩ := storeClobbers_ok hcl
        refine ⟨m, d, rfl, fun _ => hf, hfs, fun h => hwf (Memory.write_wf h _ _ _),
          fun e he => ?_, fun a h1 h2 => ?_⟩
        · rcases hin e he with he | he
          · rcases Memory.mem_write he with he | he
            · exact .inl he
            · exact .inr (.inl ⟨hw, he⟩)
          · exact .inr (.inr he)
        · rw [hout a h2]
          exact Memory.readByte_write_outside _ _ (h1 hw)
      · next hw =>
        cases hst
        obtain ⟨m, d, rfl, hfs, hwf, hin, hout⟩ := storeClobbers_ok hcl
        refine ⟨m, d, rfl, fun h => absurd h hw, hfs, hwf, fun e he => ?_, fun a _ h2 => hout a h2⟩
        rcases hin e he with he | he
        · exact .inl he
        · exact .inr (.inr he)

/-- `commit` of a command whose registers are in order, without a second output. -/
theorem commit_of_fits {op : Opcode} {c : Cmd} {lb : Nat} {out : AluOut} {s : State}
    (h2 : out.second = []) (hres : writesResult op c = true → s.fits c.res lb)
    (hcl : clobbers op = []) :
    commit op c lb out s = .ok (finish c out
      { s with mem := if writesResult op c then
          s.mem.write (s.reg c.res).addr.toNat (lb / 8) (out.result % 2 ^ lb) else s.mem }) := by
  unfold commit
  rw [h2, hcl]
  by_cases hw : writesResult op c = true
  · simp only [if_pos hw, regStore_of_fits _ (hres hw), storeSecond, storeClobbers]; rfl
  · simp only [if_neg hw, storeSecond, storeClobbers]

/-- `commit` of a command that overwrites T0 and T1. -/
theorem commit_clobber {op : Opcode} {c : Cmd} {lb : Nat} {out : AluOut} {s : State}
    (h2 : out.second = []) (hres : writesResult op c = true → s.fits c.res lb)
    (hcl : clobbers op = [t0Id, t1Id]) (h0 : s.fits t0Id lb) (h1 : s.fits t1Id lb) :
    ∃ v0 v1, commit op c lb out s = .ok (finish c out
      { s with
        mem := ((if writesResult op c then
            s.mem.write (s.reg c.res).addr.toNat (lb / 8) (out.result % 2 ^ lb) else s.mem).write
          (s.reg t0Id).addr.toNat (lb / 8) (v0 % 2 ^ lb)).write
          (s.reg t1Id).addr.toNat (lb / 8) (v1 % 2 ^ lb)
        draws := s.draws + 2 }) := by
  refine ⟨freeNat s.draws, freeNat (s.draws + 1), ?_⟩
  have key : ∀ m : Memory, storeClobbers lb { s with mem := m } [t0Id, t1Id] = .ok
      { s with
        mem := (m.write (s.reg t0Id).addr.toNat (lb / 8) (freeNat s.draws % 2 ^ lb)).write
          (s.reg t1Id).addr.toNat (lb / 8) (freeNat (s.draws + 1) % 2 ^ lb)
        draws := s.draws + 2 } := by
    intro m
    have a0 := regStore_of_fits (s := { s with mem := m }) (freeNat s.draws) h0
    have a1 := regStore_of_fits
      (s := { State.putReg { s with mem := m } t0Id lb (freeNat s.draws) with
        draws := s.draws + 1 }) (freeNat (s.draws + 1)) h1
    simp only [storeClobbers, a0]
    simp only [State.putReg_draws, a1]
    rfl
  unfold commit
  rw [h2, hcl]
  by_cases hw : writesResult op c = true
  · simp only [if_pos hw, regStore_of_fits _ (hres hw), storeSecond]
    rw [putReg_eq, key]
  · simp only [if_neg hw, storeSecond]
    rw [key s.mem]

/-! ## RETIRE -/

theorem raiseAll_cons (s : State) (f : Cause) (fs : List Cause) :
    raiseAll s (f :: fs) = raiseAll (s.raise f) fs := rfl

/-- Everything a RETIRE of a command can do when it answers a next state. -/
theorem retire_next {op : Opcode} {c : Cmd} {s t : State} (h : exec (op.instr c) s = .next t) :
    ∃ (out : AluOut) (m : Memory) (d : Nat),
      t = finish c out { raiseAll s (op.alu (s.aluArgs op c)).faults with mem := m, draws := d } ∧
      (s.slot c.len).occ = true ∧
      (writesResult op c = true → s.fits c.res (s.cmdLb c)) ∧
      (∀ j ∈ clobbers op, s.fits j (s.cmdLb c)) ∧ (s.mem.wf → m.wf) ∧
      (∀ e ∈ m, e ∈ s.mem ∨ s.cmdStores op c e.1) ∧
      ∀ a, ¬ s.cmdStores op c a → m.readByte a = s.mem.readByte a := by
  rw [exec_command] at h
  unfold retire at h
  split at h
  · cases h
  · next x hg =>
    obtain ⟨hocc, rfl⟩ := gather_ok hg
    simp only at h
    split at h
    · cases h
    · next u hc =>
      cases h
      generalize hS : settleDraws (op.alu (s.aluArgs op c))
        (raiseAll s (op.alu (s.aluArgs op c)).faults) = S at hc
      generalize ho : settle (s.aluArgs op c).lb (op.alu (s.aluArgs op c)) s = out at hc
      have h2 : out.second = [] := by
        rw [← ho]; unfold settle; split <;> simp [alu_second]
      obtain ⟨m, d, rfl, hf, hcl, hwf, hin, hout⟩ := commit_ok h2 hc
      have hSs : ∃ d', S = { raiseAll s (op.alu (s.aluArgs op c)).faults with draws := d' } ∧
          S.regTab = s.regTab ∧ S.mem = s.mem := by
        rw [← hS]; unfold settleDraws
        rcases alu_faults op (s.aluArgs op c) with hfl | ⟨-, hfl⟩ | ⟨-, hfl⟩ | ⟨-, hfl⟩ <;>
          rw [hfl] <;> exact ⟨_, rfl, rfl, rfl⟩
      obtain ⟨d', hSd, hreg, hmem⟩ := hSs
      have hR : ∀ i, S.reg i = s.reg i := fun i => by unfold State.reg; rw [hreg]
      simp only [State.fits, hR, hmem] at hf hcl hwf hin hout
      refine ⟨out, m, d, by rw [hSd], hocc, hf, hcl, hwf, hin, fun a ha => ?_⟩
      unfold State.cmdStores at ha
      push Not at ha
      refine hout a (fun hw => ?_) (fun j hj => ?_)
      · have h1 := ha.1 hw
        show a < _ ∨ _ + (s.cmdLb c) / 8 ≤ a
        omega
      · have h1 := ha.2 j hj
        show a < _ ∨ _ + (s.cmdLb c) / 8 ≤ a
        omega

/-- The bits a RETIRE may add to the log: none, or the one fault event of its opcode (R129, R133 to
R135, R143). -/
def faultBits (op : Opcode) (fs : BitVec 6) : Prop :=
  fs = 0#6 ∨ (op = .div ∧ fs = 8#6) ∨ (op = .modinv ∧ fs = 16#6) ∨
    ((op = .modmul ∨ op = .modexp) ∧ fs = 32#6)

/-- A RETIRE that answers a next state, as one update of the state. -/
theorem retire_update {op : Opcode} {c : Cmd} {s t : State} (h : exec (op.instr c) s = .next t) :
    ∃ (cr z : Bool) (m : Memory) (d : Nat) (fs : BitVec 6),
      t = { s with
        mem := m, draws := d, carry := cr, zero := z, busy := false,
        intStat := if c.irq then s.intStat ||| fs ||| 2#6 else s.intStat ||| fs,
        faultLog := s.faultLog ||| fs } ∧
      faultBits op fs ∧ (s.mem.wf → m.wf) ∧
      (∀ e ∈ m, e ∈ s.mem ∨ s.cmdStores op c e.1) ∧
      (∀ a, ¬ s.cmdStores op c a → m.readByte a = s.mem.readByte a) ∧
      (writesResult op c = true → s.fits c.res (s.cmdLb c)) ∧
      ∀ j ∈ clobbers op, s.fits j (s.cmdLb c) := by
  obtain ⟨out, m, d, rfl, -, hr, hc, hwf, hin, hout⟩ := retire_next h
  rcases alu_faults op (s.aluArgs op c) with hf | ⟨ho, hf⟩ | ⟨ho, hf⟩ | ⟨ho, hf⟩
  · refine ⟨out.carry, out.zero, m, d, 0#6, ?_, .inl rfl, hwf, hin, hout, hr, hc⟩
    rw [hf]; unfold finish
    cases c.irq <;> simp [raiseAll, State.latch, Cause.bit, Cause.code]
    rfl
  · refine ⟨out.carry, out.zero, m, d, 8#6, ?_, .inr (.inl ⟨ho, rfl⟩), hwf, hin, hout, hr, hc⟩
    rw [hf]; unfold finish
    cases c.irq <;> rfl
  · refine ⟨out.carry, out.zero, m, d, 16#6, ?_, .inr (.inr (.inl ⟨ho, rfl⟩)), hwf, hin, hout, hr,
      hc⟩
    rw [hf]; unfold finish
    cases c.irq <;> rfl
  · refine ⟨out.carry, out.zero, m, d, 32#6, ?_, .inr (.inr (.inr ⟨ho, rfl⟩)), hwf, hin, hout, hr,
      hc⟩
    rw [hf]; unfold finish
    cases c.irq <;> rfl

end Sys2Proof.Machine
end

