-- ==== Sys2Proof/Laws/Commands.lean ====
section
/-! SUPPORT. What a command that is ready answers, by the shape of its opcode: one that overwrites no
scratch, one that overwrites T0 and T1, one that raises a fault event. -/

namespace Sys2Proof.Machine

open Sys2Proof.Config

theorem ready_res {s : State} {op : Opcode} {c : Cmd} (h : s.ready op c)
    (hw : writesResult op c = true) : s.fits c.res (s.cmdLb c) :=
  h.2 _ (by simp [checkedRegs, hw])

theorem ready_clobber {s : State} {op : Opcode} {c : Cmd} (h : s.ready op c) {j : RegId}
    (hj : j ∈ clobbers op) : s.fits j (s.cmdLb c) :=
  h.2 _ (by simp [checkedRegs, hj])

/-- The arena with the result of a command other than CMP. -/
theorem memWithResult_eq {op : Opcode} (h : op ≠ .cmp) (s : State) (c : Cmd) (v : Nat) :
    (if writesResult op c then
      s.mem.write (s.reg c.res).addr.toNat (s.cmdLb c / 8) (v % 2 ^ s.cmdLb c) else s.mem) =
      s.memWithResult c v := by
  unfold writesResult State.memWithResult
  rw [decide_eq_true h, Bool.and_true]
  by_cases hd : c.discard = true <;> simp only [hd] <;> rfl

/-- A command that overwrites no scratch and raises no fault event. -/
theorem exec_plain {s : State} {op : Opcode} {c : Cmd} (h : s.ready op c)
    (hcl : clobbers op = []) (hf : (op.alu (s.aluArgs op c)).faults = []) :
    exec (op.instr c) s = .next { s with
      mem := if writesResult op c then
          s.mem.write (s.reg c.res).addr.toNat (s.cmdLb c / 8)
            ((op.alu (s.aluArgs op c)).result % 2 ^ s.cmdLb c)
        else s.mem
      carry   := (op.alu (s.aluArgs op c)).carry
      zero    := (op.alu (s.aluArgs op c)).zero
      busy    := false
      intStat := s.intStatDone c } := by
  rw [exec_command]
  unfold retire
  rw [gather_of_ready h]
  simp only [settle, settleDraws, hf, raiseAll, if_true]
  have hlb : (s.aluArgs op c).lb = s.cmdLb c := rfl
  rw [hlb, commit_of_fits (alu_second _ _) (ready_res h) hcl]
  simp only [finish, State.intStatDone, State.latch]
  cases c.irq <;> simp

/-- A command that overwrites T0 and T1 and raises no fault event. -/
theorem exec_clobber {s : State} {op : Opcode} {c : Cmd} (h : s.ready op c)
    (hcl : clobbers op = [t0Id, t1Id]) (hf : (op.alu (s.aluArgs op c)).faults = []) :
    ∃ v0 v1, exec (op.instr c) s = .next { s with
      mem := s.memWithScratch c (if writesResult op c then
          s.mem.write (s.reg c.res).addr.toNat (s.cmdLb c / 8)
            ((op.alu (s.aluArgs op c)).result % 2 ^ s.cmdLb c)
        else s.mem) v0 v1
      carry   := (op.alu (s.aluArgs op c)).carry
      zero    := (op.alu (s.aluArgs op c)).zero
      busy    := false
      intStat := s.intStatDone c
      draws   := s.draws + 2 } := by
  rw [exec_command]
  unfold retire
  rw [gather_of_ready h]
  simp only [settle, settleDraws, hf, raiseAll, if_true]
  have hlb : (s.aluArgs op c).lb = s.cmdLb c := rfl
  obtain ⟨v0, v1, e⟩ := commit_clobber (op := op) (c := c) (lb := s.cmdLb c) (s := s)
    (alu_second op (s.aluArgs op c)) (ready_res h) hcl
    (ready_clobber h (by rw [hcl]; simp)) (ready_clobber h (by rw [hcl]; simp))
  refine ⟨v0, v1, ?_⟩
  rw [hlb, e]
  simp only [finish, State.intStatDone, State.latch]
  cases c.irq <;> simp <;> rfl

/-- A command that raises one fault event (R140, R143). -/
theorem exec_faulting {s : State} {op : Opcode} {c : Cmd} {k : Cause} (h : s.ready op c)
    (hcl : clobbers op = [t0Id, t1Id]) (hf : (op.alu (s.aluArgs op c)).faults = [k]) :
    ∃ r cr z v0 v1, exec (op.instr c) s = .next { s with
      mem := s.memWithScratch c (if writesResult op c then
          s.mem.write (s.reg c.res).addr.toNat (s.cmdLb c / 8) (r % 2 ^ s.cmdLb c)
        else s.mem) v0 v1
      carry    := cr
      zero     := z
      busy     := false
      intStat  := if c.irq then s.intStat ||| k.bit ||| Cause.bit .done else s.intStat ||| k.bit
      faultLog := s.faultLog ||| k.bit
      draws    := s.draws + 4 } := by
  rw [exec_command]
  unfold retire
  rw [gather_of_ready h]
  simp only [settle, settleDraws, hf, raiseAll, if_false, List.cons_ne_nil]
  have hlb : (s.aluArgs op c).lb = s.cmdLb c := rfl
  obtain ⟨v0, v1, e⟩ := commit_clobber (op := op) (c := c) (lb := s.cmdLb c)
    (s := { State.raise k s with draws := (State.raise k s).draws + 2 })
    (out := { op.alu (s.aluArgs op c) with
      result := freeNat s.draws % 2 ^ s.cmdLb c
      carry  := freeBit s.draws
      zero   := freeBit (s.draws + 1) })
    (alu_second op (s.aluArgs op c)) (ready_res h) hcl
    (ready_clobber h (by rw [hcl]; simp)) (ready_clobber h (by rw [hcl]; simp))
  refine ⟨freeNat s.draws % 2 ^ s.cmdLb c, freeBit s.draws, freeBit (s.draws + 1), v0, v1, ?_⟩
  rw [hlb, ← hf, e]
  simp only [finish, State.latch, State.raise]
  cases c.irq <;> simp <;> rfl

end Sys2Proof.Machine
end

