-- ==== Sys2Proof/Laws/Decoding.lean ====
section
/-! SUPPORT. What the decoder can answer: a command word is one of the twelve opcodes, the HOST's bus
gives none of them. -/

namespace Sys2Proof

open Sys2Proof.Machine

/-- A command word that decodes is one of the twelve opcodes with its own fields. -/
theorem decodeCommand_some {w : Word} {i : Instr} (h : decodeCommand w = some i) :
    ∃ op : Opcode, i = op.instr (Cmd.ofWord w) ∧ opcField w = op.id := by
  have key : ∀ (o : Nat), (opcField w).toNat = o → ∀ v : BitVec 5, v.toNat = o → opcField w = v :=
    fun o h1 v h2 => BitVec.eq_of_toNat_eq (h1.trans h2.symm)
  unfold decodeCommand at h
  simp only at h
  split at h <;> cases h
  · next e => exact ⟨.add, rfl, key _ e _ rfl⟩
  · next e => exact ⟨.sub, rfl, key _ e _ rfl⟩
  · next e => exact ⟨.cmp, rfl, key _ e _ rfl⟩
  · next e => exact ⟨.shift, rfl, key _ e _ rfl⟩
  · next e => exact ⟨.logic, rfl, key _ e _ rfl⟩
  · next e => exact ⟨.div, rfl, key _ e _ rfl⟩
  · next e => exact ⟨.reduce, rfl, key _ e _ rfl⟩
  · next e => exact ⟨.modadd, rfl, key _ e _ rfl⟩
  · next e => exact ⟨.modsub, rfl, key _ e _ rfl⟩
  · next e => exact ⟨.modmul, rfl, key _ e _ rfl⟩
  · next e => exact ⟨.modexp, rfl, key _ e _ rfl⟩
  · next e => exact ⟨.modinv, rfl, key _ e _ rfl⟩

/-- A word with an unassigned opcode is no command (R63). -/
theorem decodeCommand_none {w : Word} (h : (opcField w).toNat = 0 ∨ 0x0D ≤ (opcField w).toNat) :
    decodeCommand w = none := by
  cases hd : decodeCommand w with
  | none => rfl
  | some i =>
    obtain ⟨op, -, ho⟩ := decodeCommand_some hd
    rw [ho] at h
    cases op <;> simp [Opcode.id] at h

/-- Instructions that the HOST issues, as against the commands the ENGINE retires. -/
def Instr.isCommand : Instr → Bool
  | .add _ | .sub _ | .cmp _ | .shift _ | .logic _ | .div _ | .reduce _ | .modadd _ | .modsub _
  | .modmul _ | .modexp _ | .modinv _ => true
  | _ => false

/-- The completed reads among the HOST's operations. -/
def Instr.isRead : Instr → Bool
  | .rdStatus | .rdIntStat | .rdIntMask | .rdFaultLog | .rdTopPend | .rdLenRsp | .rdRegRsp
  | .rdLenBits _ | .rdLenFull _ | .rdRegAddr _ | .rdRegSize _ | .sramRd32 _ => true
  | _ => false

theorem isCommand_iff (i : Instr) : i.isCommand = true ↔ ∃ (op : Opcode) (c : Cmd), i = op.instr c := by
  constructor
  · intro h
    cases i <;> first | (exact absurd h Bool.false_ne_true) | skip
    · exact ⟨.add, _, rfl⟩
    · exact ⟨.sub, _, rfl⟩
    · exact ⟨.cmp, _, rfl⟩
    · exact ⟨.shift, _, rfl⟩
    · exact ⟨.logic, _, rfl⟩
    · exact ⟨.div, _, rfl⟩
    · exact ⟨.reduce, _, rfl⟩
    · exact ⟨.modadd, _, rfl⟩
    · exact ⟨.modsub, _, rfl⟩
    · exact ⟨.modmul, _, rfl⟩
    · exact ⟨.modexp, _, rfl⟩
    · exact ⟨.modinv, _, rfl⟩
  · rintro ⟨op, c, rfl⟩
    cases op <;> rfl

/-- The HOST's bus gives no command (R69). -/
theorem decodeHost_not_command {op : HostOp} {i : Instr} (h : decode (.host op) = .ok i) :
    i.isCommand = false := by
  change decodeHost op = .ok i at h
  cases op with
  | bus p d =>
    unfold decodeHost at h
    simp only at h
    split at h
    · cases h
    · split at h
      · cases h
      · split at h
        · unfold decodeWrite at h
          split at h <;> cases h <;> first | rfl | (unfold decodeLenReq; split <;> rfl)
        · unfold decodeRead at h
          repeat' split at h
          all_goals (cases h; try rfl)
  | sram p d =>
    unfold decodeHost at h
    simp only at h
    split at h
    · cases h
    · split at h <;> cases h <;> rfl

end Sys2Proof
end

