-- ==== Sys2Proof/Laws/HostOps.lean ====
section
/-! SUPPORT. Everything an instruction of the HOST can do (`host_next` and `HostEffect`). -/

namespace Sys2Proof.Machine

open Sys2Proof.Config

/-- Everything a HOST operation can do to the state `s` when it answers a next state. -/
inductive HostEffect (s : State) : Instr → State → Prop
  /-- A completed read, of a register or of the arena. -/
  | read (i : Instr) (v : Word) (hi : i.isRead = true) : HostEffect s i { s with readData := v }
  | intStat (v : BitVec 6) :
      HostEffect s (.wrIntStat v) { s with intStat := s.intStat &&& ~~~v }
  | intMask (v : BitVec 6) : HostEffect s (.wrIntMask v) { s with intMask := v }
  | push (w : Word) : HostEffect s (.push w) (s.pushWord w)
  | submit (w : Word) : HostEffect s (.submit w) (s.startRoom (some w))
  | waitRoom : HostEffect s .waitRoom (s.startRoom none)
  | waitIdle : HostEffect s .waitIdle s.startIdle
  /-- BAD_OPCODE (R100). -/
  | lenBad (opc : BitVec 5) (w : BitVec 20) (hc : classOf opc = none) :
      HostEffect s (.lenReq opc w) { s with lenRsp := lenAnswer 2#2 0#3 0 }
  /-- A request that reuses a slot (R97). -/
  | lenReuse (i : Instr) (cls : LenClass) (b : Nat) (k : SlotId)
      (hi : lenRequestOf i = some (cls, b)) (hb : b < 2 ^ 20)
      (hm : s.matchingSlot (lenBits cls b) (lenFull cls b) = some k) :
      HostEffect s i { s with lenRsp := lenOk k (lenFull cls b) }
  /-- A request that claims a slot (R98). -/
  | lenClaim (i : Instr) (cls : LenClass) (b : Nat) (k : SlotId)
      (hi : lenRequestOf i = some (cls, b)) (hb : b < 2 ^ 20)
      (hm : s.matchingSlot (lenBits cls b) (lenFull cls b) = none) (hf : s.freeSlot = some k) :
      HostEffect s i
        { s.setSlot k ⟨true, BitVec.ofNat 22 (lenBits cls b), BitVec.ofNat 22 (lenFull cls b)⟩ with
          lenRsp := lenOk k (lenFull cls b) }
  /-- EXHAUSTED (R99). -/
  | lenExhausted (i : Instr) (cls : LenClass) (b : Nat)
      (hi : lenRequestOf i = some (cls, b)) (hb : b < 2 ^ 20)
      (hm : s.matchingSlot (lenBits cls b) (lenFull cls b) = none) (hf : s.freeSlot = none) :
      HostEffect s i { s with lenRsp := lenAnswer 1#2 0#3 0 }
  | lenReset (hi : s.isIdle = true) :
      HostEffect s .lenReset { s with lenTab := Vector.replicate 8 ⟨false, 0#22, 0#22⟩ }
  /-- A failed REG_ALLOC (R105), whose answer is one of NO_ID, NO_SRAM and BAD_SLOT. -/
  | allocFails (k : SlotId) (r : Word) (d : Nat)
      (hr : r = ansNoId ∨ r = ansNoSram ∨ r = ansBadSlot) :
      HostEffect s (.regAlloc k) { s with regRsp := r, draws := d }
  /-- A failed REG_BIND (R108), whose answer is one of BAD_ID, BAD_SLOT and NO_SRAM. -/
  | bindFails (i : RegId) (k : SlotId) (r : Word) (d : Nat)
      (hr : r = ansBadId ∨ r = ansBadSlot ∨ r = ansNoSram) :
      HostEffect s (.regBind i k) { s with regRsp := r, draws := d }
  | alloc (k : SlotId) (i : RegId) (a : Nat) (ho : (s.slot k).occ = true)
      (hf : s.freeReg = some i) (ha : s.sramAlloc (s.slotBytes k) = some a)
      (hi : s.isIdle = true) :
      HostEffect s (.regAlloc k) (s.drawn.bindReg i a (s.slotBytes k))
  | bind (k : SlotId) (i : RegId) (a : Nat) (ho : (s.slot k).occ = true)
      (hr : isReserved i = true) (hf : (s.reg i).occ = false)
      (ha : s.sramAlloc (s.slotBytes k) = some a) (hi : s.isIdle = true) :
      HostEffect s (.regBind i k) (s.drawn.bindReg i a (s.slotBytes k))
  /-- REG_FREE of a free id (R110). -/
  | freeAgain (i : RegId) (hf : (s.reg i).occ = false) :
      HostEffect s (.regFree i) { s with regRsp := regOk i }
  | free (i : RegId) (ho : (s.reg i).occ = true) (hi : s.isIdle = true) :
      HostEffect s (.regFree i) (s.unbindReg i)
  | store (a v : Word) (h4 : a.toNat % 4 = 0) (hs : a.toNat + 4 ≤ s.cfg.sramSize)
      (hi : s.isIdle = true) :
      HostEffect s (.sramWr32 a v) { s with mem := s.mem.write a.toNat 4 v.toNat }

theorem requestSlot_effect (s : State) (i : Instr) (cls : LenClass) (b : Nat)
    (hi : lenRequestOf i = some (cls, b)) (hb : b < 2 ^ 20) :
    HostEffect s i (s.requestSlot cls b) := by
  unfold State.requestSlot
  simp only
  split
  · next k hm => exact .lenReuse i cls b k hi hb hm
  · next hm =>
    split
    · next k hf => exact .lenClaim i cls b k hi hb hm hf
    · next hf => exact .lenExhausted i cls b hi hb hm hf

/-- Everything a HOST operation that answers a next state has done. -/
theorem host_next {i : Instr} {s t : State} (hi : i.isCommand = false) (h : exec i s = .next t) :
    HostEffect s i t := by
  cases i with
  | add | sub | cmp | shift | logic | div | reduce | modadd | modsub | modmul | modexp | modinv =>
    cases hi
  | longdiv w => cases h; exact requestSlot_effect s _ _ _ rfl w.isLt
  | push w => cases h; exact .push w
  | rdStatus => cases h; exact .read _ _ rfl
  | rdIntStat => cases h; exact .read _ _ rfl
  | wrIntStat v => cases h; exact .intStat v
  | rdIntMask => cases h; exact .read _ _ rfl
  | wrIntMask v => cases h; exact .intMask v
  | rdFaultLog => cases h; exact .read _ _ rfl
  | rdTopPend => cases h; exact .read _ _ rfl
  | lenReq o w =>
    change execLenReq o w s = _ at h
    unfold execLenReq at h
    split at h
    · next hc => cases h; exact .lenBad o w hc
    · next cls hc =>
      cases h
      exact requestSlot_effect s _ _ _ (by simp only [lenRequestOf, hc]) w.isLt
  | rdLenRsp => cases h; exact .read _ _ rfl
  | lenReset =>
    change execLenReset s = _ at h
    unfold execLenReset at h
    split at h
    · next hi => cases h; exact .lenReset hi
    · cases h
  | regAlloc k =>
    change execRegAlloc k s = _ at h
    unfold execRegAlloc at h
    split at h
    · cases h; exact .allocFails k _ _ (.inr (.inr rfl))
    · next ho =>
      split at h
      · cases h; exact .allocFails k _ _ (.inl rfl)
      · next i hf =>
        unfold State.allocateWith at h
        split at h
        · cases h; exact .allocFails k _ _ (.inr (.inl rfl))
        · next a ha =>
          split at h
          · next hi => cases h; exact .alloc k i a (by simpa using ho) hf ha hi
          · cases h
  | regBind i k =>
    change execRegBind i k s = _ at h
    unfold execRegBind at h
    split at h
    · cases h; exact .bindFails i k _ _ (.inl rfl)
    · next hr =>
      rw [not_or] at hr
      split at h
      · cases h; exact .bindFails i k _ _ (.inr (.inl rfl))
      · next ho =>
        unfold State.allocateWith at h
        split at h
        · cases h; exact .bindFails i k _ _ (.inr (.inr rfl))
        · next a ha =>
          split at h
          · next hi =>
            cases h
            exact .bind k i a (by simpa using ho) (by simpa using hr.1) (by simpa using hr.2) ha hi
          · cases h
  | regFree i =>
    change execRegFree i s = _ at h
    unfold execRegFree at h
    split at h
    · next hf => cases h; exact .freeAgain i hf
    · next ho =>
      split at h
      · next hi => cases h; exact .free i (by simpa using ho) hi
      · cases h
  | rdRegRsp => cases h; exact .read _ _ rfl
  | waitRoom => cases h; exact .waitRoom
  | waitIdle => cases h; exact .waitIdle
  | submit w => cases h; exact .submit w
  | rdLenBits k => cases h; exact .read _ _ rfl
  | rdLenFull k => cases h; exact .read _ _ rfl
  | rdRegAddr r => cases h; exact .read _ _ rfl
  | rdRegSize r => cases h; exact .read _ _ rfl
  | sramRd32 a =>
    change s.arenaAccess a _ = _ at h
    unfold State.arenaAccess at h
    split at h
    · cases h
    · split at h
      · cases h
      · split at h
        · cases h; exact .read _ _ rfl
        · cases h
  | sramWr32 a v =>
    change s.arenaAccess a _ = _ at h
    unfold State.arenaAccess at h
    split at h
    · cases h
    · next h4 =>
      split at h
      · cases h
      · next hs =>
        split at h
        · next hi => cases h; exact .store a v (by simpa using h4) (by omega) hi
        · cases h

end Sys2Proof.Machine
end

