-- ==== Sys2Proof/Laws/Waits.lean ====
section
/-! SUPPORT. Everything the two waits can do, each step of theirs as one update of the state. -/

namespace Sys2Proof.Machine

open Sys2Proof.Config

/-- The mask after a wait completes (R76 to R79). -/
def State.ownMask (c : Cause) (s : State) : BitVec 6 :=
  if s.cfg.policy = .event then s.intMask ||| c.bit else s.intMask

theorem maskOwn_eq (c : Cause) (s : State) : s.maskOwn c = { s with intMask := s.ownMask c } := by
  unfold State.maskOwn State.ownMask
  cases s.cfg.policy <;> rfl

theorem pushWord_room {s : State} (w : Word) (h : s.room = true) :
    s.pushWord w = { s with fifo := s.fifo ++ [fifoEntry w] } := by
  unfold State.pushWord
  rw [if_pos h]

theorem pushWord_full {s : State} (w : Word) (h : s.room = false) :
    s.pushWord w = s.raise .fifoOvf := by
  unfold State.pushWord
  rw [if_neg (by simp [h])]

/-- The completion of a WAIT_ROOM (R76, R77). -/
theorem finishRoom_read {s : State} (h : s.held = none) :
    s.finishRoom =
      { s with intMask := s.ownMask .fifoWm, hwait := .none, readData := s.status } := by
  unfold State.finishRoom
  simp only [maskOwn_eq, h]

/-- The completion of a SUBMIT (R75). -/
theorem finishRoom_submit {s : State} {w : Word} (h : s.held = some w) (hr : s.room = true) :
    s.finishRoom =
      { s with
        intMask := s.ownMask .fifoWm, hwait := .none, held := none,
        fifo := s.fifo ++ [fifoEntry w] } := by
  unfold State.finishRoom
  simp only [maskOwn_eq, h]
  exact pushWord_room w hr

theorem finishIdle_eq (s : State) :
    s.finishIdle = { s with intMask := s.ownMask .done, hwait := .none, readData := s.status } := by
  unfold State.finishIdle
  rw [maskOwn_eq]

/-- Everything a step of the wait that is open can do. -/
inductive WaitEffect (s : State) : State → Prop
  | room (hw : s.hwait = .roomCheck) (hr : s.room = true) (hh : s.held = none) :
      WaitEffect s { s with intMask := s.ownMask .fifoWm, hwait := .none, readData := s.status }
  | submit (w : Word) (hw : s.hwait = .roomCheck) (hr : s.room = true) (hh : s.held = some w) :
      WaitEffect s
        { s with
          intMask := s.ownMask .fifoWm, hwait := .none, held := none,
          fifo := s.fifo ++ [fifoEntry w] }
  | armRoom (hp : s.cfg.policy = .event) (hw : s.hwait = .roomCheck) (hr : s.room = false) :
      WaitEffect s
        { s with sigFifo := false, intMask := armMask .fifoWm s.intMask, hwait := .roomArmed }
  | wakeRoom (hp : s.cfg.policy = .event) (hw : s.hwait = .roomArmed) (hs : s.sigFifo = true)
      (hd : s.demux = .idle) : WaitEffect s { s with sigFifo := false, hwait := .roomCheck }
  | idle (hw : s.hwait = .idleCheck) (hi : s.isIdle = true) :
      WaitEffect s { s with intMask := s.ownMask .done, hwait := .none, readData := s.status }
  | armIdle (hp : s.cfg.policy = .event) (hw : s.hwait = .idleCheck) (hi : s.isIdle = false) :
      WaitEffect s
        { s with sigDone := false, intMask := armMask .done s.intMask, hwait := .idleArmed }
  | wakeIdle (hp : s.cfg.policy = .event) (hw : s.hwait = .idleArmed) (hs : s.sigDone = true)
      (hd : s.demux = .idle) : WaitEffect s { s with sigDone := false, hwait := .idleCheck }

/-- Everything an enabled step of an open wait can do. -/
theorem waitStep_effect {s : State} (he : s.waitEnabled = true) : WaitEffect s s.waitStep := by
  unfold State.waitStep
  rw [if_pos he]
  unfold State.waitEnabled at he
  cases hw : s.hwait with
  | none => simp [hw] at he
  | roomCheck =>
    simp only
    cases hr : s.room with
    | true =>
      rw [if_pos rfl]
      cases hh : s.held with
      | none => rw [finishRoom_read hh]; exact .room hw hr hh
      | some w => rw [finishRoom_submit hh hr]; exact .submit w hw hr hh
    | false =>
      rw [if_neg (by simp)]
      cases hp : s.cfg.policy with
      | poll => simp [hw, hp, hr] at he
      | event => exact .armRoom hp hw hr
  | roomArmed =>
    simp only
    cases hp : s.cfg.policy with
    | poll => simp [hw, hp] at he
    | event =>
      simp only [hw, hp, Bool.and_eq_true, decide_eq_true_eq] at he
      exact .wakeRoom hp hw he.1 he.2
  | idleCheck =>
    simp only
    cases hi : s.isIdle with
    | true => rw [if_pos rfl, finishIdle_eq]; exact .idle hw hi
    | false =>
      rw [if_neg (by simp)]
      cases hp : s.cfg.policy with
      | poll => simp [hw, hp, hi] at he
      | event => exact .armIdle hp hw hi
  | idleArmed =>
    simp only
    cases hp : s.cfg.policy with
    | poll => simp [hw, hp] at he
    | event =>
      simp only [hw, hp, Bool.and_eq_true, decide_eq_true_eq] at he
      exact .wakeIdle hp hw he.1 he.2

/-- Opening a wait for room (R75 to R77). -/
theorem startRoom_read (s : State) :
    s.startRoom none =
      if s.room = true then
        { s with
          intMask := s.ownMask .fifoWm, hwait := .none, held := none, readData := s.status }
      else { s with hwait := .roomCheck, held := none } := by
  unfold State.startRoom
  simp only
  change (if s.room = true then _ else _) = _
  split
  · rw [finishRoom_read rfl]; rfl
  · rfl

theorem startRoom_submit (s : State) (w : Word) :
    s.startRoom (some w) =
      if s.room = true then
        { s with
          intMask := s.ownMask .fifoWm, hwait := .none, held := none,
          fifo := s.fifo ++ [fifoEntry w] }
      else { s with hwait := .roomCheck, held := some w } := by
  unfold State.startRoom
  simp only
  change (if s.room = true then _ else _) = _
  split
  · next hr => exact finishRoom_submit (s := { s with hwait := .roomCheck, held := some w }) rfl hr
  · rfl

/-- Opening a wait for idleness (R78, R79). -/
theorem startIdle_eq (s : State) :
    s.startIdle =
      if s.isIdle = true then
        { s with intMask := s.ownMask .done, hwait := .none, readData := s.status }
      else { s with hwait := .idleCheck } := by
  unfold State.startIdle
  simp only
  change (if s.isIdle = true then _ else _) = _
  split
  · rw [finishIdle_eq]; rfl
  · rfl

end Sys2Proof.Machine
end

