-- ==== Sys2Proof/Laws/Steps.lean ====
section
/-! SUPPORT. Everything one step can do (`step_next` and `TurnEffect`). -/

namespace Sys2Proof.Machine

open Sys2Proof.Config

/-- Everything a turn of an agent can do to the state `u` when it answers a next state. -/
inductive TurnEffect (u : State) : Act → State → Prop
  /-- The agent is not enabled, or is the sibling's handler. -/
  | pass (act : Act) : TurnEffect u act u
  /-- ENGINE.RETIRE (R119). -/
  | retire (op : Opcode) (t : State) (hb : u.busy = true) (ho : opcField u.cur = op.id)
      (hx : exec (op.instr (Cmd.ofWord u.cur)) u = .next t) : TurnEffect u .engine t
  /-- ENGINE.POP (R118). -/
  | pop (w : Word) (rest : List Word) (hb : u.busy = false) (hf : u.fifo = w :: rest) :
      TurnEffect u .engine
        { u with
          fifo := rest, cur := w, busy := true,
          intStat := if u.fifo.length = u.cfg.fifoWm then u.intStat ||| 1#6 else u.intStat }
  /-- The HOST's next access, an instruction. -/
  | hostOp (i : Instr) (a : HostAccess) (rest : List HostAccess) (op : HostOp) (t : State)
      (hw : u.hwait = .none) (hp : u.program = a :: rest) (hr : routeAccess u.cfg a = .ok op)
      (hd : decode (.host op) = .ok i) (hi : i.isCommand = false)
      (hx : HostEffect { u with program := rest } i t) : TurnEffect u .host t
  /-- The HOST's next access, a read no register answers (R90). -/
  | hostZero (a : HostAccess) (rest : List HostAccess) (hw : u.hwait = .none)
      (hp : u.program = a :: rest) :
      TurnEffect u .host { u with program := rest, readData := 0#32 }
  /-- The HOST's next access, a write that is ignored (R90). -/
  | hostIgnored (a : HostAccess) (rest : List HostAccess) (hw : u.hwait = .none)
      (hp : u.program = a :: rest) : TurnEffect u .host { u with program := rest }
  /-- A step of the wait the HOST is in (R76 to R79). -/
  | wait (t : State) (hw : u.hwait ≠ .none) (hx : WaitEffect u t) : TurnEffect u .host t
  /-- DEMUX.MASK (R148). -/
  | mask (pick : Option Cause) (c : Cause) (hp : u.cfg.policy = .event) (hd : u.demux = .idle)
      (hc : u.choose pick = some c) : TurnEffect u (.demux pick) (u.demuxMask c)
  /-- DEMUX.RELEASE (R150). -/
  | release (pick : Option Cause) (c : Cause) (hp : u.cfg.policy = .event)
      (hd : u.demux = .masked c) : TurnEffect u (.demux pick) (u.demuxRelease c)
  /-- DEMUX.CLEAR (R151). -/
  | clear (pick : Option Cause) (c : Cause) (hp : u.cfg.policy = .event)
      (hd : u.demux = .released c) : TurnEffect u (.demux pick) (u.demuxClear c)

theorem hostTurn_next {u t : State} (h : hostTurn u = .next t) : TurnEffect u .host t := by
  unfold hostTurn at h
  split at h
  · next hw =>
    split at h
    · cases h; exact .pass _
    · next a rest hp =>
      unfold issue at h
      split at h
      · cases h
      · next op hr =>
        split at h
        · next i hd =>
          have hi := decodeHost_not_command hd
          exact .hostOp i a rest op t hw hp hr hd hi (host_next hi h)
        · unfold otherAccess at h
          split at h <;> cases h
          · exact .hostZero a rest hw hp
          · exact .hostIgnored a rest hw hp
  · next hw =>
    cases h
    cases he : u.waitEnabled with
    | true => exact .wait _ hw (waitStep_effect he)
    | false => unfold State.waitStep; rw [if_neg (by simp [he])]; exact .pass _

/-- POP as one update (R118). -/
theorem pop_eq {s : State} {w : Word} {rest : List Word} (hf : s.fifo = w :: rest) :
    s.pop = { s with
      fifo := rest, cur := w, busy := true,
      intStat := if s.fifo.length = s.cfg.fifoWm then s.intStat ||| 1#6 else s.intStat } := by
  unfold State.pop
  rw [hf]
  simp only [State.count, hf]
  by_cases h : (w :: rest).length = s.cfg.fifoWm <;> (simp only [h, if_true, if_false]; try rfl)

theorem engineTurn_next {u t : State} (h : engineTurn u = .next t) : TurnEffect u .engine t := by
  unfold engineTurn at h
  split at h
  · next hb =>
    split at h
    · next i hd =>
      have hd : decodeCommand u.cur = some i := by
        unfold decode at hd
        simp only at hd
        split at hd
        · next hc => cases hd; exact hc
        · cases hd
      obtain ⟨op, rfl, ho⟩ := decodeCommand_some hd
      exact .retire op t hb ho h
    · cases h; exact .pass _
  · next hb =>
    cases h
    cases hf : u.fifo with
    | nil => unfold State.pop; rw [hf]; exact .pass _
    | cons w rest =>
      have := TurnEffect.pop (u := u) w rest (by simpa using hb) hf
      rw [pop_eq hf]
      exact this

/-- Under POLL the DEMUX takes no step (R157). -/
theorem demuxStep_poll {s : State} (hp : s.cfg.policy = .poll) (pick : Option Cause) :
    s.demuxStep pick = s := by
  unfold State.demuxStep
  rw [hp]

theorem demuxStep_event {s : State} (hp : s.cfg.policy = .event) (pick : Option Cause) :
    s.demuxStep pick = s.demuxServe pick := by
  unfold State.demuxStep
  rw [hp]

theorem demuxServe_idle {s : State} {pick : Option Cause} {c : Cause} (hd : s.demux = .idle)
    (hc : s.choose pick = some c) : s.demuxServe pick = s.demuxMask c := by
  unfold State.demuxServe
  simp only [hd, hc]

theorem demuxServe_none {s : State} {pick : Option Cause} (hd : s.demux = .idle)
    (hc : s.choose pick = none) : s.demuxServe pick = s := by
  unfold State.demuxServe
  simp only [hd, hc]

theorem demuxServe_masked {s : State} {c : Cause} (hd : s.demux = .masked c)
    (pick : Option Cause) : s.demuxServe pick = s.demuxRelease c := by
  unfold State.demuxServe
  simp only [hd]

theorem demuxServe_released {s : State} {c : Cause} (hd : s.demux = .released c)
    (pick : Option Cause) : s.demuxServe pick = s.demuxClear c := by
  unfold State.demuxServe
  simp only [hd]

/-- Everything a turn of the DEMUX can do. -/
theorem demuxStep_effect (u : State) (pick : Option Cause) :
    TurnEffect u (.demux pick) (u.demuxStep pick) := by
  cases hp : u.cfg.policy with
  | poll => rw [demuxStep_poll hp]; exact .pass _
  | event =>
    rw [demuxStep_event hp]
    cases hd : u.demux with
    | idle =>
      cases hc : u.choose pick with
      | some c => rw [demuxServe_idle hd hc]; exact .mask pick c hp hd hc
      | none => rw [demuxServe_none hd hc]; exact .pass _
    | masked c => rw [demuxServe_masked hd]; exact .release pick c hp hd
    | released c => rw [demuxServe_released hd]; exact .clear pick c hp hd

theorem takeTurn_next {act : Act} {u t : State} (h : takeTurn act u = .next t) :
    TurnEffect u act t := by
  unfold takeTurn at h
  split at h
  · exact hostTurn_next h
  · exact engineTurn_next h
  · next pick =>
    cases h
    exact demuxStep_effect u pick
  · cases h; exact .pass _

/-- Everything one step can do: a turn of the agent whose turn it is, on the state with the turn taken
off the schedule. -/
theorem step_next {s s' : State} (h : step s = .next s') :
    ∃ sched sib act, s.nextAgent = act ∧
      TurnEffect { s with sched := sched, sibPend := sib } act s' := by
  unfold step at h
  split at h
  · next hs =>
    refine ⟨s.sched, s.sibPend, _, rfl, ?_⟩
    unfold State.nextAgent
    rw [hs]
    unfold unscheduledStep at h
    split at h
    · next hh =>
      simp only [if_pos hh]
      have := takeTurn_next h
      simpa only [← hs] using this
    · next hh =>
      split at h
      · next he =>
        simp only [if_neg hh, if_pos he]
        have := takeTurn_next h
        simpa only [← hs] using this
      · next he =>
        split at h
        · simp only [if_neg hh, if_neg he]
          have := takeTurn_next h
          simpa only [← hs] using this
        · split at h <;> cases h
  · next t rest hs =>
    refine ⟨rest, t.sib, _, rfl, ?_⟩
    unfold State.nextAgent
    rw [hs]
    exact takeTurn_next h

end Sys2Proof.Machine
end

