-- ==== Sys2Proof/Laws/Fetch.lean ====
section
/-! SUPPORT. An instruction placed where the next step fetches it is the one the next step runs, and
what the host's own placing does with a row of the opcode table. -/

namespace Sys2Proof.Machine

/-- The HOST's next access, placed, is the instruction the next step runs. -/
theorem step_placeHost {op : HostOp} {i : Instr} (s : State) (h : decode (.host op) = .ok i) :
    step (s.placeHost op) = exec i { s with hwait := .none } := by
  unfold State.placeHost step
  simp only [scheduledStep, takeTurn, hostTurn, if_true, issue, routeAccess, h]

/-- The ENGINE's command, placed, is the instruction the next step runs. -/
theorem step_placeCommand {w : Word} {i : Instr} (s : State)
    (h : decode (.command (fifoEntry w)) = .ok i) :
    step (s.placeCommand w) = exec i { s with busy := true, cur := fifoEntry w } := by
  unfold State.placeCommand step
  simp only [scheduledStep, takeTurn, engineTurn, if_true, h]

theorem withFetchWord_some {nbits w : Nat} {ws : Words} (s : State)
    (h : tableWords nbits w = some ws) : s.withFetchWord nbits w = s.placeWords ws := by
  unfold State.withFetchWord
  rw [h]

end Sys2Proof.Machine
end

