-- ==== Sys2Proof/Laws/Flags.lean ====
section
/-! SUPPORT. The flags and the last read word decide nothing: an instruction, and a turn, does the same
to two states that differ in them alone (R24, R138). -/

namespace Sys2Proof.Machine

open Sys2Proof.Config

/-- The state with other flags and another last read word. -/
def State.withFlags (s : State) (c z : Bool) (v : Word) : State :=
  { s with carry := c, zero := z, readData := v }

/-- Two outcomes of one kind; two next states differ at most in the flags and the last read word. -/
inductive SameButFlags : Result → Result → Prop
  | next (s : State) (c z : Bool) (v : Word) : SameButFlags (.next s) (.next (s.withFlags c z v))
  | fault (f : Fault) : SameButFlags (.fault f) (.fault f)
  | refused (r : Refusal) : SameButFlags (.refused r) (.refused r)

variable (s : State) (c z : Bool) (v : Word)

/-! ## The commands -/

theorem readContext_withFlags (lb : Nat) (js : List RegId) :
    (s.withFlags c z v).readContext lb js = s.readContext lb js := by
  induction js with
  | nil => rfl
  | cons j js ih =>
    unfold State.readContext
    rw [ih, show (s.withFlags c z v).regVal j lb = s.regVal j lb from rfl]

theorem gather_withFlags (op : Opcode) (k : Cmd) :
    gather op k (s.withFlags c z v) = gather op k s := by
  unfold gather
  simp only [readContext_withFlags]
  rfl

theorem regStore_withFlags (i : RegId) (lb x : Nat) :
    (s.withFlags c z v).regStore i lb x =
      match s.regStore i lb x with
      | .ok t    => .ok (t.withFlags c z v)
      | .error f => .error f := by
  unfold State.regStore
  rw [show (s.withFlags c z v).checkReg i lb = s.checkReg i lb from rfl]
  cases s.checkReg i lb <;> rfl

theorem storeClobbers_withFlags (lb : Nat) (js : List RegId) :
    storeClobbers lb (s.withFlags c z v) js =
      match storeClobbers lb s js with
      | .ok t    => .ok (t.withFlags c z v)
      | .error f => .error f := by
  induction js generalizing s with
  | nil => rfl
  | cons j js ih =>
    unfold storeClobbers
    rw [show (s.withFlags c z v).draws = s.draws from rfl, regStore_withFlags]
    cases s.regStore j lb (freeNat s.draws) with
    | error f => rfl
    | ok t => exact ih { t with draws := t.draws + 1 }

/-- Both flags are written, so only the last read word stays different. -/
theorem commit_withFlags {out : AluOut} (h2 : out.second = []) (op : Opcode) (k : Cmd) (lb : Nat) :
    commit op k lb out (s.withFlags c z v) =
      match commit op k lb out s with
      | .ok t    => .ok (t.withFlags t.carry t.zero v)
      | .error f => .error f := by
  have tail : ∀ u : State,
      (match storeClobbers lb (u.withFlags c z v) (clobbers op) with
        | .error f => .error f
        | .ok s3   => .ok (finish k out s3) : Except Fault State) =
      match (match storeClobbers lb u (clobbers op) with
        | .error f => .error f
        | .ok s3   => .ok (finish k out s3) : Except Fault State) with
      | .ok t    => .ok (t.withFlags t.carry t.zero v)
      | .error f => .error f := by
    intro u
    rw [storeClobbers_withFlags]
    cases storeClobbers lb u (clobbers op) with
    | error f => rfl
    | ok t => unfold finish; cases k.irq <;> rfl
  unfold commit
  rw [h2]
  by_cases hw : writesResult op k = true
  · simp only [if_pos hw, regStore_withFlags]
    cases s.regStore k.res lb out.result with
    | error f => rfl
    | ok t => exact tail t
  · simp only [if_neg hw]
    exact tail s

theorem raiseAll_withFlags (fs : List Cause) :
    raiseAll (s.withFlags c z v) fs = (raiseAll s fs).withFlags c z v := by
  induction fs generalizing s with
  | nil => rfl
  | cons f fs ih => exact ih (s.raise f)

theorem retire_withFlags (op : Opcode) (k : Cmd) :
    SameButFlags (exec (op.instr k) s) (exec (op.instr k) (s.withFlags c z v)) := by
  rw [exec_command, exec_command]
  unfold retire
  rw [gather_withFlags]
  cases gather op k s with
  | error f => exact .fault f
  | ok x =>
    have h2 : (settle x.lb (op.alu x) s).second = [] := by
      unfold settle; split <;> simp [alu_second]
    have hd : settleDraws (op.alu x) ((raiseAll s (op.alu x).faults).withFlags c z v) =
        (settleDraws (op.alu x) (raiseAll s (op.alu x).faults)).withFlags c z v := by
      unfold settleDraws; split <;> rfl
    simp only [raiseAll_withFlags]
    rw [show settle x.lb (op.alu x) (s.withFlags c z v) = settle x.lb (op.alu x) s from rfl, hd,
      commit_withFlags _ _ _ _ h2]
    cases commit op k x.lb (settle x.lb (op.alu x) s)
        (settleDraws (op.alu x) (raiseAll s (op.alu x).faults)) with
    | error f => exact .fault f
    | ok t => exact .next t _ _ _

/-! ## The operations of the HOST -/

theorem requestSlot_withFlags (cls : LenClass) (b : Nat) :
    (s.withFlags c z v).requestSlot cls b = (s.requestSlot cls b).withFlags c z v := by
  unfold State.requestSlot
  simp only [
    show ∀ x y, (s.withFlags c z v).matchingSlot x y = s.matchingSlot x y from fun _ _ => rfl,
    show (s.withFlags c z v).freeSlot = s.freeSlot from rfl]
  cases s.matchingSlot (lenBits cls b) (lenFull cls b) with
  | some => rfl
  | none => cases s.freeSlot <;> rfl

theorem pushWord_withFlags (w : Word) :
    (s.withFlags c z v).pushWord w = (s.pushWord w).withFlags c z v := by
  unfold State.pushWord
  rw [show (s.withFlags c z v).room = s.room from rfl]
  split <;> rfl

/-- An outcome that a test which the flags do not reach decides. -/
theorem SameButFlags.ite {p : Prop} [Decidable p] {a b a' b' : Result} (ht : SameButFlags a a')
    (hf : SameButFlags b b') : SameButFlags (if p then a else b) (if p then a' else b') := by
  split
  · exact ht
  · exact hf

theorem allocateWith_withFlags (answer : Option Nat) (i : RegId) (size : Nat) :
    SameButFlags (s.allocateWith answer i size)
      ((s.withFlags c z v).allocateWith answer i size) := by
  cases answer with
  | none => exact .next _ c z v
  | some a => exact .ite (.next _ c z v) (.fault _)

theorem arenaAccess_withFlags (offset : Word) {go go' : State} {c' z' : Bool} {v' : Word}
    (h : go' = go.withFlags c' z' v') :
    SameButFlags (s.arenaAccess offset go) ((s.withFlags c z v).arenaAccess offset go') := by
  subst h
  exact .ite (.refused _) (.ite (.refused _) (.ite (.next _ _ _ _) (.fault _)))

theorem startRoom_withFlags (held : Option Word) :
    SameButFlags (.next (s.startRoom held)) (.next ((s.withFlags c z v).startRoom held)) := by
  cases held with
  | none =>
    rw [startRoom_read, startRoom_read, show (s.withFlags c z v).room = s.room from rfl]
    split
    · exact .next _ c z _
    · exact .next _ c z v
  | some w =>
    rw [startRoom_submit, startRoom_submit, show (s.withFlags c z v).room = s.room from rfl]
    split <;> exact .next _ c z v

theorem startIdle_withFlags :
    SameButFlags (.next s.startIdle) (.next (s.withFlags c z v).startIdle) := by
  rw [startIdle_eq, startIdle_eq, show (s.withFlags c z v).isIdle = s.isIdle from rfl]
  split
  · exact .next _ c z _
  · exact .next _ c z v

/-- An instruction does the same whatever the flags and the last read word are. -/
theorem exec_withFlags (i : Instr) : SameButFlags (exec i s) (exec i (s.withFlags c z v)) := by
  cases hi : i.isCommand with
  | true =>
    obtain ⟨op, k, rfl⟩ := (isCommand_iff i).1 hi
    exact retire_withFlags s c z v op k
  | false =>
    cases i with
    | add | sub | cmp | shift | logic | div | reduce | modadd | modsub | modmul | modexp | modinv =>
      cases hi
    | rdStatus | rdIntStat | rdIntMask | rdFaultLog | rdTopPend | rdLenRsp | rdRegRsp | rdLenBits
    | rdLenFull | rdRegAddr | rdRegSize => exact .next _ c z _
    | wrIntStat | wrIntMask => exact .next _ c z v
    | push w =>
      show SameButFlags (.next _) (.next ((s.withFlags c z v).pushWord w))
      rw [pushWord_withFlags]
      exact .next _ c z v
    | longdiv w =>
      show SameButFlags (.next _) (.next ((s.withFlags c z v).requestSlot _ _))
      rw [requestSlot_withFlags]
      exact .next _ c z v
    | lenReq o w =>
      show SameButFlags (execLenReq o w s) (execLenReq o w (s.withFlags c z v))
      unfold execLenReq
      cases classOf o with
      | none => exact .next _ c z v
      | some cls => simp only [requestSlot_withFlags]; exact .next _ c z v
    | lenReset => exact .ite (.next _ c z v) (.fault _)
    | regAlloc k =>
      refine SameButFlags.ite (p := (s.slot k).occ = false) (.next _ c z v) ?_
      rw [show (s.withFlags c z v).freeReg = s.freeReg from rfl]
      cases s.freeReg with
      | none => exact .next _ c z v
      | some i => exact allocateWith_withFlags s.drawn c z v (s.sramAlloc (s.slotBytes k)) i _
    | regBind i k =>
      exact SameButFlags.ite (p := isReserved i = false ∨ (s.reg i).occ = true) (.next _ c z v)
        (.ite (p := (s.slot k).occ = false) (.next _ c z v)
          (allocateWith_withFlags s.drawn c z v (s.sramAlloc (s.slotBytes k)) i _))
    | regFree i => exact .ite (.next _ c z v) (.ite (.next _ c z v) (.fault _))
    | waitRoom => exact startRoom_withFlags s c z v none
    | submit w => exact startRoom_withFlags s c z v (some w)
    | waitIdle => exact startIdle_withFlags s c z v
    | sramRd32 a => exact arenaAccess_withFlags s c z v a (c' := c) (z' := z) rfl
    | sramWr32 a d => exact arenaAccess_withFlags s c z v a (c' := c) (z' := z) (v' := v) rfl

/-! ## The turns -/

theorem issue_withFlags (a : HostAccess) :
    SameButFlags (issue a s) (issue a (s.withFlags c z v)) := by
  unfold issue
  rw [show (s.withFlags c z v).cfg = s.cfg from rfl]
  cases routeAccess s.cfg a with
  | error r => exact .refused r
  | ok op =>
    simp only
    cases decode (.host op) with
    | ok i => exact exec_withFlags s c z v i
    | error e =>
      cases e with
      | readsAsZero => exact .next _ c z 0#32
      | writeIgnored => exact .next _ c z v
      | misalignedOffset | misalignedArenaOffset | outsideRegisterSpace | unassignedOpcode =>
        exact .refused _

theorem waitStep_withFlags :
    SameButFlags (.next s.waitStep) (.next (s.withFlags c z v).waitStep) := by
  cases he : s.waitEnabled with
  | false =>
    have he' : (s.withFlags c z v).waitEnabled = false := he
    unfold State.waitStep
    simp only [he, he', Bool.false_eq_true, if_false]
    exact .next _ c z v
  | true =>
    have he' : (s.withFlags c z v).waitEnabled = true := he
    unfold State.waitStep
    rw [if_pos he, if_pos he', show (s.withFlags c z v).hwait = s.hwait from rfl]
    cases s.hwait with
    | none | roomArmed | idleArmed => exact .next _ c z v
    | roomCheck =>
      simp only
      rw [show (s.withFlags c z v).room = s.room from rfl]
      split
      · unfold State.finishRoom State.maskOwn
        rw [show (s.withFlags c z v).cfg = s.cfg from rfl,
          show (s.withFlags c z v).held = s.held from rfl]
        cases s.held with
        | none => cases s.cfg.policy <;> exact .next _ c z _
        | some w =>
          simp only
          cases s.cfg.policy with
          | poll =>
            exact pushWord_withFlags { s with hwait := .none, held := none } c z v w ▸
              .next _ c z v
          | event =>
            exact pushWord_withFlags
              { s with intMask := s.intMask ||| Cause.bit .fifoWm, hwait := .none, held := none }
              c z v w ▸ .next _ c z v
      · exact .next _ c z v
    | idleCheck =>
      simp only
      rw [show (s.withFlags c z v).isIdle = s.isIdle from rfl]
      split
      · unfold State.finishIdle State.maskOwn
        rw [show (s.withFlags c z v).cfg = s.cfg from rfl]
        cases s.cfg.policy <;> exact .next _ c z _
      · exact .next _ c z v

theorem pop_withFlags : (s.withFlags c z v).pop = s.pop.withFlags c z v := by
  unfold State.pop
  rw [show (s.withFlags c z v).fifo = s.fifo from rfl]
  cases s.fifo with
  | nil => rfl
  | cons w rest =>
    simp only
    rw [show (s.withFlags c z v).count = s.count from rfl,
      show (s.withFlags c z v).cfg = s.cfg from rfl]
    split <;> rfl

theorem demuxServe_withFlags (pick : Option Cause) :
    (s.withFlags c z v).demuxServe pick = (s.demuxServe pick).withFlags c z v := by
  unfold State.demuxServe
  rw [show (s.withFlags c z v).demux = s.demux from rfl,
    show (s.withFlags c z v).choose pick = s.choose pick from rfl]
  cases s.demux with
  | idle => cases s.choose pick <;> rfl
  | masked k => rfl
  | released k => rfl

theorem demuxStep_withFlags (pick : Option Cause) :
    (s.withFlags c z v).demuxStep pick = (s.demuxStep pick).withFlags c z v := by
  unfold State.demuxStep
  rw [show (s.withFlags c z v).cfg = s.cfg from rfl, demuxServe_withFlags]
  cases s.cfg.policy <;> rfl

/-- A turn does the same whatever the flags and the last read word are. -/
theorem takeTurn_withFlags (act : Act) :
    SameButFlags (takeTurn act s) (takeTurn act (s.withFlags c z v)) := by
  cases act with
  | sibling => exact .next _ c z v
  | demux pick =>
    show SameButFlags (.next _) (.next ((s.withFlags c z v).demuxStep pick))
    rw [demuxStep_withFlags]
    exact .next _ c z v
  | host =>
    show SameButFlags (hostTurn s) (hostTurn (s.withFlags c z v))
    unfold hostTurn
    refine SameButFlags.ite (p := s.hwait = .none) ?_ (waitStep_withFlags s c z v)
    rw [show (s.withFlags c z v).program = s.program from rfl]
    cases s.program with
    | nil => exact .next _ c z v
    | cons a rest => exact issue_withFlags { s with program := rest } c z v a
  | engine =>
    show SameButFlags (engineTurn s) (engineTurn (s.withFlags c z v))
    unfold engineTurn
    refine SameButFlags.ite (p := s.busy = true) ?_ ?_
    · rw [show (s.withFlags c z v).cur = s.cur from rfl]
      cases decode (.command s.cur) with
      | ok i => exact exec_withFlags s c z v i
      | error e => exact .next _ c z v
    · rw [pop_withFlags]
      exact .next _ c z v

end Sys2Proof.Machine
end

