-- ==== Sys2Proof/Laws/PerInstr.lean ====
section
/-! SUPPORT. Each instruction's own words lie in its row of spec/opcode_table.json: the family
`RowMatch`, one lemma a constructor. -/

namespace Sys2Proof

/-- A row of spec/opcode_table.json: how many bits it numbers, its mask and its match value. -/
structure Row where
  bits  : Nat
  mask  : Nat
  value : Nat
  deriving DecidableEq, Repr

/-- The row of each instruction, copied from spec/opcode_table.json. -/
def Instr.row : Instr → Row
  | .add _ => ⟨32, 0xF8000000, 0x08000000⟩
  | .sub _ => ⟨32, 0xF8000000, 0x10000000⟩
  | .cmp _ => ⟨32, 0xF8000000, 0x18000000⟩
  | .shift _ => ⟨32, 0xF8000000, 0x20000000⟩
  | .logic _ => ⟨32, 0xF8000000, 0x28000000⟩
  | .div _ => ⟨32, 0xF8000000, 0x30000000⟩
  | .reduce _ => ⟨32, 0xF8000000, 0x38000000⟩
  | .modadd _ => ⟨32, 0xF8000000, 0x40000000⟩
  | .modsub _ => ⟨32, 0xF8000000, 0x48000000⟩
  | .modmul _ => ⟨32, 0xF8000000, 0x50000000⟩
  | .modexp _ => ⟨32, 0xF8000000, 0x58000000⟩
  | .modinv _ => ⟨32, 0xF8000000, 0x60000000⟩
  | .longdiv _ => ⟨32, 0xF8000000, 0xF8000000⟩
  | .push _ => ⟨13, 0x1FFF, 0x1000⟩
  | .rdStatus => ⟨13, 0x1FFF, 0x0004⟩
  | .rdIntStat => ⟨13, 0x1FFF, 0x0008⟩
  | .wrIntStat _ => ⟨13, 0x1FFF, 0x1008⟩
  | .rdIntMask => ⟨13, 0x1FFF, 0x000C⟩
  | .wrIntMask _ => ⟨13, 0x1FFF, 0x100C⟩
  | .rdFaultLog => ⟨13, 0x1FFF, 0x0010⟩
  | .rdTopPend => ⟨13, 0x1FFF, 0x0014⟩
  | .lenReq _ _ => ⟨13, 0x1FFF, 0x1018⟩
  | .rdLenRsp => ⟨13, 0x1FFF, 0x001C⟩
  | .lenReset => ⟨13, 0x1FFF, 0x1020⟩
  | .regAlloc _ => ⟨13, 0x1FFF, 0x1024⟩
  | .regBind _ _ => ⟨13, 0x1FFF, 0x1028⟩
  | .regFree _ => ⟨13, 0x1FFF, 0x102C⟩
  | .rdRegRsp => ⟨13, 0x1FFF, 0x0030⟩
  | .waitRoom => ⟨13, 0x1FFF, 0x0034⟩
  | .waitIdle => ⟨13, 0x1FFF, 0x0038⟩
  | .submit _ => ⟨13, 0x1FFF, 0x103C⟩
  | .rdLenBits _ => ⟨13, 0x1FE3, 0x0040⟩
  | .rdLenFull _ => ⟨13, 0x1FE3, 0x0060⟩
  | .rdRegAddr _ => ⟨13, 0x1F83, 0x0080⟩
  | .rdRegSize _ => ⟨13, 0x1F83, 0x0100⟩
  | .sramRd32 _ => ⟨33, 0x100000003, 0x000000000⟩
  | .sramWr32 _ _ => ⟨33, 0x100000003, 0x100000000⟩

/-- Words lie in a row. The row of LONGDIV numbers the data word of a LEN_REQ (R136). -/
def Row.holds (r : Row) : Words → Prop
  | .command w => r.bits = 32 ∧ w &&& BitVec.ofNat 32 r.mask = BitVec.ofNat 32 r.value
  | .host (.bus p d) =>
    (r.bits = 13 ∧ p &&& BitVec.ofNat 13 r.mask = BitVec.ofNat 13 r.value) ∨
    (r.bits = 32 ∧ p = 0x1018#13 ∧ d &&& BitVec.ofNat 32 r.mask = BitVec.ofNat 32 r.value)
  | .host (.sram p _) => r.bits = 33 ∧ p &&& BitVec.ofNat 33 r.mask = BitVec.ofNat 33 r.value

end Sys2Proof

namespace Sys2Proof.Laws.RowMatch

/-- The words of a well-formed instruction lie in its row of the opcode table. -/
def Statement (i : Instr) : Prop := i.wf = true → i.row.holds (encode i)

theorem append_mask {n m : Nat} (x k : BitVec n) (y : BitVec m) :
    (x ++ y) &&& (k ++ 0#m) = (x &&& k) ++ 0#m := by
  rw [BitVec.and_append, BitVec.and_zero]

theorem assemble_row (opc : BitVec 5) (c : Cmd) :
    c.assemble opc &&& 0xF8000000#32 = opc ++ 0#27 := by
  have h : c.assemble opc &&& 0xF8000000#32 =
      (opc &&& 31#5) ++ 0#3 ++ 0#5 ++ 0#1 ++ 0#5 ++ 0#5 ++ 0#1 ++ 0#1 ++ 0#1 ++ 0#5 :=
    (append_mask _ 0x7C00000#27 _).trans <| congrArg (· ++ 0#5) <|
    (append_mask _ 0x3E00000#26 _).trans <| congrArg (· ++ 0#1) <|
    (append_mask _ 0x1F00000#25 _).trans <| congrArg (· ++ 0#1) <|
    (append_mask _ 0xF80000#24 _).trans <| congrArg (· ++ 0#1) <|
    (append_mask _ 0x7C000#19 _).trans <| congrArg (· ++ 0#5) <|
    (append_mask _ 0x3E00#14 _).trans <| congrArg (· ++ 0#5) <|
    (append_mask _ 0x1F00#13 _).trans <| congrArg (· ++ 0#1) <|
    (append_mask _ 0xF8#8 _).trans <| congrArg (· ++ 0#5) <|
    (append_mask _ 31#5 _)
  rw [h]
  clear h
  revert opc
  decide

theorem command_row (op : Opcode) (c : Cmd) :
    (⟨32, 0xF8000000, (op.id ++ 0#27 : BitVec 32).toNat⟩ : Row).holds
      (.command (c.assemble op.id)) := by
  refine ⟨rfl, (assemble_row op.id c).trans ?_⟩
  simp only [BitVec.ofNat_toNat, BitVec.setWidth_eq]

theorem lenReqData_row (w : BitVec 20) : lenReqData 0x1F#5 w &&& 0xF8000000#32 = 0xF8000000#32 :=
  (append_mask _ 0xF80#12 _).trans (by decide)

theorem sram_row (b : BitVec 1) (a : Word) (h : a.toNat % 4 = 0) :
    (b ++ a) &&& 0x100000003#33 = b ++ 0#32 := by
  have hm : (0x100000003#33 : BitVec 33) = 1#1 ++ 3#32 := by decide
  have ha : a &&& 3#32 = 0#32 := by
    apply BitVec.eq_of_toNat_eq
    rw [BitVec.toNat_and]
    exact (Nat.and_two_pow_sub_one_eq_mod a.toNat 2).trans h
  rw [hm, BitVec.and_append, ha]
  revert b
  decide

theorem add (c : Cmd) : Statement (.add c) := fun _ => command_row .add c

theorem sub (c : Cmd) : Statement (.sub c) := fun _ => command_row .sub c

theorem cmp (c : Cmd) : Statement (.cmp c) := fun _ => command_row .cmp c

theorem shift (c : Cmd) : Statement (.shift c) := fun _ => command_row .shift c

theorem logic (c : Cmd) : Statement (.logic c) := fun _ => command_row .logic c

theorem div (c : Cmd) : Statement (.div c) := fun _ => command_row .div c

theorem reduce (c : Cmd) : Statement (.reduce c) := fun _ => command_row .reduce c

theorem modadd (c : Cmd) : Statement (.modadd c) := fun _ => command_row .modadd c

theorem modsub (c : Cmd) : Statement (.modsub c) := fun _ => command_row .modsub c

theorem modmul (c : Cmd) : Statement (.modmul c) := fun _ => command_row .modmul c

theorem modexp (c : Cmd) : Statement (.modexp c) := fun _ => command_row .modexp c

theorem modinv (c : Cmd) : Statement (.modinv c) := fun _ => command_row .modinv c

theorem longdiv (w : BitVec 20) : Statement (.longdiv w) := fun _ =>
  .inr ⟨rfl, rfl, lenReqData_row w⟩

theorem push (w : Word) : Statement (.push w) := fun _ =>
  .inl ⟨rfl, (by decide : (1#1 ++ 0#12 : BitVec 13) &&& 0x1FFF#13 = 0x1000#13)⟩

theorem rdStatus : Statement .rdStatus := fun _ =>
  .inl ⟨rfl, (by decide : (0#1 ++ 4#12 : BitVec 13) &&& 0x1FFF#13 = 0x0004#13)⟩

theorem rdIntStat : Statement .rdIntStat := fun _ =>
  .inl ⟨rfl, (by decide : (0#1 ++ 8#12 : BitVec 13) &&& 0x1FFF#13 = 0x0008#13)⟩

theorem wrIntStat (v : BitVec 6) : Statement (.wrIntStat v) := fun _ =>
  .inl ⟨rfl, (by decide : (1#1 ++ 8#12 : BitVec 13) &&& 0x1FFF#13 = 0x1008#13)⟩

theorem rdIntMask : Statement .rdIntMask := fun _ =>
  .inl ⟨rfl, (by decide : (0#1 ++ 12#12 : BitVec 13) &&& 0x1FFF#13 = 0x000C#13)⟩

theorem wrIntMask (v : BitVec 6) : Statement (.wrIntMask v) := fun _ =>
  .inl ⟨rfl, (by decide : (1#1 ++ 12#12 : BitVec 13) &&& 0x1FFF#13 = 0x100C#13)⟩

theorem rdFaultLog : Statement .rdFaultLog := fun _ =>
  .inl ⟨rfl, (by decide : (0#1 ++ 16#12 : BitVec 13) &&& 0x1FFF#13 = 0x0010#13)⟩

theorem rdTopPend : Statement .rdTopPend := fun _ =>
  .inl ⟨rfl, (by decide : (0#1 ++ 20#12 : BitVec 13) &&& 0x1FFF#13 = 0x0014#13)⟩

theorem lenReq (o : BitVec 5) (w : BitVec 20) : Statement (.lenReq o w) := fun _ =>
  .inl ⟨rfl, (by decide : (1#1 ++ 24#12 : BitVec 13) &&& 0x1FFF#13 = 0x1018#13)⟩

theorem rdLenRsp : Statement .rdLenRsp := fun _ =>
  .inl ⟨rfl, (by decide : (0#1 ++ 28#12 : BitVec 13) &&& 0x1FFF#13 = 0x001C#13)⟩

theorem lenReset : Statement .lenReset := fun _ =>
  .inl ⟨rfl, (by decide : (1#1 ++ 32#12 : BitVec 13) &&& 0x1FFF#13 = 0x1020#13)⟩

theorem regAlloc (k : SlotId) : Statement (.regAlloc k) := fun _ =>
  .inl ⟨rfl, (by decide : (1#1 ++ 36#12 : BitVec 13) &&& 0x1FFF#13 = 0x1024#13)⟩

theorem regBind (r : RegId) (k : SlotId) : Statement (.regBind r k) := fun _ =>
  .inl ⟨rfl, (by decide : (1#1 ++ 40#12 : BitVec 13) &&& 0x1FFF#13 = 0x1028#13)⟩

theorem regFree (r : RegId) : Statement (.regFree r) := fun _ =>
  .inl ⟨rfl, (by decide : (1#1 ++ 44#12 : BitVec 13) &&& 0x1FFF#13 = 0x102C#13)⟩

theorem rdRegRsp : Statement .rdRegRsp := fun _ =>
  .inl ⟨rfl, (by decide : (0#1 ++ 48#12 : BitVec 13) &&& 0x1FFF#13 = 0x0030#13)⟩

theorem waitRoom : Statement .waitRoom := fun _ =>
  .inl ⟨rfl, (by decide : (0#1 ++ 52#12 : BitVec 13) &&& 0x1FFF#13 = 0x0034#13)⟩

theorem waitIdle : Statement .waitIdle := fun _ =>
  .inl ⟨rfl, (by decide : (0#1 ++ 56#12 : BitVec 13) &&& 0x1FFF#13 = 0x0038#13)⟩

theorem submit (w : Word) : Statement (.submit w) := fun _ =>
  .inl ⟨rfl, (by decide : (1#1 ++ 60#12 : BitVec 13) &&& 0x1FFF#13 = 0x103C#13)⟩

theorem rdLenBits (k : SlotId) : Statement (.rdLenBits k) := fun _ => by
  have h : ∀ x : SlotId,
      (0#1 ++ BitVec.ofNat 12 (64 + 4 * x.val) : BitVec 13) &&& 0x1FE3#13 = 0x40#13 := by decide
  exact .inl ⟨rfl, h k⟩

theorem rdLenFull (k : SlotId) : Statement (.rdLenFull k) := fun _ => by
  have h : ∀ x : SlotId,
      (0#1 ++ BitVec.ofNat 12 (96 + 4 * x.val) : BitVec 13) &&& 0x1FE3#13 = 0x60#13 := by decide
  exact .inl ⟨rfl, h k⟩

theorem rdRegAddr (r : RegId) : Statement (.rdRegAddr r) := fun _ => by
  have h : ∀ x : RegId,
      (0#1 ++ BitVec.ofNat 12 (128 + 4 * x.val) : BitVec 13) &&& 0x1F83#13 = 0x80#13 := by decide
  exact .inl ⟨rfl, h r⟩

theorem rdRegSize (r : RegId) : Statement (.rdRegSize r) := fun _ => by
  have h : ∀ x : RegId,
      (0#1 ++ BitVec.ofNat 12 (256 + 4 * x.val) : BitVec 13) &&& 0x1F83#13 = 0x100#13 := by decide
  exact .inl ⟨rfl, h r⟩

theorem sramRd32 (a : Word) : Statement (.sramRd32 a) := fun h =>
  ⟨rfl, (sram_row 0#1 a (by simpa [Instr.wf] using h)).trans
    (by decide : (0#1 ++ 0#32 : BitVec 33) = 0#33)⟩

theorem sramWr32 (a v : Word) : Statement (.sramWr32 a v) := fun h =>
  ⟨rfl, (sram_row 1#1 a (by simpa [Instr.wf] using h)).trans
    (by decide : (1#1 ++ 0#32 : BitVec 33) = 0x100000000#33)⟩

end Sys2Proof.Laws.RowMatch
end

