-- ==== Sys2Proof/Tests/Slice0.lean ====
section
/-! SUPPORT. Tests: the well-formedness checks, written-out words, single steps with the values of
spec/95_test_vectors.md, and a witness for the hypotheses of every statement. -/

namespace Sys2Proof.Tests

open Sys2Proof.Machine Sys2Proof.Config

/-! ## Well-formedness: one ill-formed term for each check -/

/-- A SRAM_RD32 at an offset that is no multiple of 4 (R43). -/
theorem test_wf_refuses_misaligned_read : Instr.wf (.sramRd32 0x2A#32) = false := by decide

/-- A SRAM_WR32 at an offset that is no multiple of 4 (R43). -/
theorem test_wf_refuses_misaligned_write : Instr.wf (.sramWr32 0x29#32 7#32) = false := by decide

/-- A LEN_REQ with the opcode field of LONGDIV (R136). -/
theorem test_wf_refuses_longdiv_as_lenReq : Instr.wf (.lenReq 0x1F#5 64#20) = false := by decide

/-! ## Decoding of words written out from R57, R61, R69, R70 (vectors V3.1 to V3.5) -/

/-- V3.1: the commands, bits 31 down to 0. -/
theorem test_decode_additive_commands :
    decode (.command 0b00001010000110001000010101000000#32) =
      .ok (.add ⟨2, 3, false, 4, 5, false, true, false⟩) ∧
    decode (.command 0b00010000000001001010001000000000#32) =
      .ok (.sub ⟨0, 0, true, 5, 2, false, false, false⟩) ∧
    decode (.command 0b00011000000001111110000011000000#32) =
      .ok (.cmp ⟨0, 0, true, 31, 0, true, true, false⟩) := by decide

theorem test_decode_shift_logic_division :
    decode (.command 0b00100001001101100010011000000000#32) =
      .ok (.shift ⟨1, 6, true, 17, 6, false, false, false⟩) ∧
    decode (.command 0b00101000000100000110010000000000#32) =
      .ok (.logic ⟨0, 2, false, 3, 4, false, false, false⟩) ∧
    decode (.command 0b00110101010100010110110000000000#32) =
      .ok (.div ⟨5, 10, false, 11, 12, false, false, false⟩) ∧
    decode (.command 0b00111000000100000110010001000000#32) =
      .ok (.reduce ⟨0, 2, false, 3, 4, false, true, false⟩) := by decide

theorem test_decode_modular_commands :
    decode (.command 0b01000000000100000110010000000000#32) =
      .ok (.modadd ⟨0, 2, false, 3, 4, false, false, false⟩) ∧
    decode (.command 0b01001000000100000110010000000000#32) =
      .ok (.modsub ⟨0, 2, false, 3, 4, false, false, false⟩) ∧
    decode (.command 0b01010011001000001010011001100000#32) =
      .ok (.modmul ⟨3, 4, false, 5, 6, false, true, true⟩) ∧
    decode (.command 0b01011111111111111110000011100000#32) =
      .ok (.modexp ⟨7, 31, true, 31, 0, true, true, true⟩) ∧
    decode (.command 0b01100100000100000000100101000000#32) =
      .ok (.modinv ⟨4, 2, false, 0, 9, false, true, false⟩) := by decide

/-- V3.2: reserved bits are dropped; 0x00, 0x0D and 0x1F are no commands. -/
theorem test_decode_reserved_and_unassigned :
    fifoEntry 0x0A18855F#32 = 0x0A188540#32 ∧ fifoEntry 0xFFFFFFFF#32 = 0xFFFFFFE0#32 ∧
    decode (.command 0x00000000#32) = .error .unassignedOpcode ∧
    decode (.command 0x68000000#32) = .error .unassignedOpcode ∧
    decode (.command 0xFFFFFFE0#32) = .error .unassignedOpcode := by decide

/-- V3.5: the writes, bit 12 of the pattern being 1. -/
theorem test_decode_bus_writes :
    decode (.host (.bus 0b1000000000000#13 0x18002080#32)) = .ok (.push 0x18002080#32) ∧
    decode (.host (.bus 0b1000000001000#13 0x02#32)) = .ok (.wrIntStat 0x02#6) ∧
    decode (.host (.bus 0b1000000001100#13 0xFF#32)) = .ok (.wrIntMask 0x3F#6) ∧
    decode (.host (.bus 0b1000000100000#13 0#32)) = .ok .lenReset ∧
    decode (.host (.bus 0b1000000111100#13 0x08002240#32)) = .ok (.submit 0x08002240#32) := by
  decide

/-- V3.4: the data words of the requests. -/
theorem test_decode_request_words :
    decode (.host (.bus 0b1000000011000#13 0x08000100#32)) = .ok (.lenReq 0x01#5 256#20) ∧
    decode (.host (.bus 0b1000000011000#13 0xF8000100#32)) = .ok (.longdiv 256#20) ∧
    decode (.host (.bus 0b1000000011000#13 0x60000020#32)) = .ok (.lenReq 0x0C#5 32#20) ∧
    decode (.host (.bus 0b1000000100100#13 0x00000003#32)) = .ok (.regAlloc 3) ∧
    decode (.host (.bus 0b1000000101000#13 0x00001E02#32)) = .ok (.regBind 30 2) ∧
    decode (.host (.bus 0b1000000101100#13 0x00000011#32)) = .ok (.regFree 17) := by decide

theorem test_decode_bus_reads :
    decode (.host (.bus 0b0000000000100#13 0#32)) = .ok .rdStatus ∧
    decode (.host (.bus 0b0000000001000#13 0#32)) = .ok .rdIntStat ∧
    decode (.host (.bus 0b0000000001100#13 0#32)) = .ok .rdIntMask ∧
    decode (.host (.bus 0b0000000010000#13 0#32)) = .ok .rdFaultLog ∧
    decode (.host (.bus 0b0000000010100#13 0#32)) = .ok .rdTopPend ∧
    decode (.host (.bus 0b0000000011100#13 0#32)) = .ok .rdLenRsp ∧
    decode (.host (.bus 0b0000000110000#13 0#32)) = .ok .rdRegRsp ∧
    decode (.host (.bus 0b0000000110100#13 0#32)) = .ok .waitRoom ∧
    decode (.host (.bus 0b0000000111000#13 0#32)) = .ok .waitIdle := by decide

/-- V3.5: the table views carry their index in the offset; the arena's two forms. -/
theorem test_decode_views_and_arena :
    decode (.host (.bus 0b0000001010100#13 0#32)) = .ok (.rdLenBits 5) ∧
    decode (.host (.bus 0b0000001111100#13 0#32)) = .ok (.rdLenFull 7) ∧
    decode (.host (.bus 0b0000011111100#13 0#32)) = .ok (.rdRegAddr 31) ∧
    decode (.host (.bus 0b0000101111000#13 0#32)) = .ok (.rdRegSize 30) ∧
    decode (.host (.sram 0b000000000000000000000000000101000#33 0#32)) =
      .ok (.sramRd32 0x28#32) ∧
    decode (.host (.sram 0b100000000000000000000000000101000#33 9#32)) =
      .ok (.sramWr32 0x28#32 9#32) := by decide

/-- Rejected by name (R39, R40, R43, R90). -/
theorem test_decode_rejects_by_name :
    decode (.host (.bus 0b0000000000000#13 0#32)) = .error .readsAsZero ∧
    decode (.host (.bus 0b0000110000000#13 0#32)) = .error .readsAsZero ∧
    decode (.host (.bus 0b1000000000100#13 0#32)) = .error .writeIgnored ∧
    decode (.host (.bus 0b0000000000110#13 0#32)) = .error .misalignedOffset ∧
    decode (.host (.bus 0b0001000000000#13 0#32)) = .error .outsideRegisterSpace ∧
    decode (.host (.sram 0b000000000000000000000000000101010#33 0#32)) =
      .error .misalignedArenaOffset := by decide

/-- The table's numbering, an operand word of zeros. -/
theorem test_decode_table_words :
    decodeTableWord 32 0x08002240 = some (.add ⟨0, 0, false, 1, 2, false, true, false⟩) ∧
    decodeTableWord 13 0x1018 = some (.lenReq 0#5 0#20) ∧
    decodeTableWord 16 0x1018 = some (.lenReq 0#5 0#20) ∧
    decodeTableWord 33 0x100000028 = some (.sramWr32 0x28#32 0#32) ∧
    decodeTableWord 24 0x08 = none := by decide

/-! ## A small state -/

/-- R0, R1, R2, T0 and T1, of 8 bytes each, back to back from offset 0. -/
def benchRegs : Vector RegEntry 32 :=
  (((((Vector.replicate 32 ⟨false, 0#32, 0#32⟩).set 0 ⟨true, 0#32, 8#32⟩).set 1
    ⟨true, 8#32, 8#32⟩).set 2 ⟨true, 16#32, 8#32⟩).set 30 ⟨true, 24#32, 8#32⟩).set 31
    ⟨true, 32#32, 8#32⟩

/-- Slot 0 is (64, 64), R0 holds `a`, R1 holds `b`, and a command is held by the ENGINE. -/
def bench (a b : Nat) : State :=
  { State.reset with
    lenTab := (Vector.replicate 8 ⟨false, 0#22, 0#22⟩).set 0 ⟨true, 64#22, 64#22⟩
    regTab := benchRegs
    live   := [(0, 8), (8, 8), (16, 8), (24, 8), (32, 8)]
    mem    := Memory.write (Memory.write [] 0 8 a) 8 8 b
    busy   := true }

/-- R2 is the result of R0 and R1 over slot 0, with IRQ. -/
def regReg : Cmd := ⟨0, 0, false, 1, 2, false, true, false⟩

/-- R2 is the result of R0 and an immediate over slot 0. -/
def regImm (n : Fin 32) : Cmd := ⟨0, 0, true, n, 2, false, false, false⟩

/-- A field of the next state. -/
def after {α : Type} (r : Result) (f : State → α) : Option α :=
  match r with
  | .next t => some (f t)
  | _       => none

/-- R2 as a number, carry, zero, INT_STAT and `busy`. -/
def outcome (s : State) : Nat × Bool × Bool × BitVec 6 × Bool :=
  (s.mem.read 16 8, s.carry, s.zero, s.intStat, s.busy)

/-- The small state with an idle ENGINE and `n` words queued. -/
def queued (n : Nat) : State :=
  { bench 5 7 with busy := false, fifo := List.replicate n 0x18002080#32 }

/-- The same under EVENT. -/
def event (s : State) : State := { s with cfg := { s.cfg with policy := .event } }

/-- A turn with quiet siblings. -/
def turn (act : Act) : Turn := ⟨act, 0#2⟩

theorem bench_ok : (bench 5 7).ok :=
  ⟨by decide, by decide, ⟨by decide, by simp [bench, State.reset, State.resetWith], by decide⟩,
    by decide, by decide, by decide, by decide, by decide, by decide⟩

/-! ## Commands (vectors V7) -/

/-- V7.2: the sum wraps. -/
theorem test_add_wraps :
    after (exec (.add (regImm 1)) (bench 0xFFFFFFFFFFFFFFFF 0)) outcome =
      some (0, true, true, 0#6, false) := by decide

/-- V7.6: the immediate is zero-extended. -/
theorem test_add_immediate_is_zero_extended :
    after (exec (.add (regImm 31)) (bench 1 0)) outcome =
      some (0x20, false, false, 0#6, false) := by decide

/-- V7.8: the borrow. -/
theorem test_sub_borrows :
    after (exec (.sub regReg) (bench 5 7)) outcome =
      some (0xFFFFFFFFFFFFFFFE, true, false, 2#6, false) := by decide

/-- V7.9. -/
theorem test_sub_equal :
    after (exec (.sub regReg) (bench 7 7)) outcome = some (0, false, true, 2#6, false) := by decide

/-- V7.15, V7.19: no register is written and RES is ignored, also where it is unoccupied. -/
theorem test_cmp_writes_flags_only :
    after (exec (.cmp { regReg with res := 9 }) (bench 5 7)) outcome =
      some (0, true, false, 2#6, false) := by decide

/-- V7.18: an immediate of 31. -/
theorem test_cmp_equal_immediate :
    after (exec (.cmp (regImm 31)) (bench 31 0)) outcome =
      some (0, false, true, 0#6, false) := by decide

/-- V7.24: `busy` falls, DONE is set if the command asked; a discarded result is not written. -/
theorem test_shift_and_logic_retire :
    after (exec (.shift { regReg with discard := true }) (bench 5 7))
      (fun t => (t.mem.read 16 8, t.intStat, t.faultLog, t.busy)) = some (0, 2#6, 0#6, false) ∧
    after (exec (.logic (regImm 3)) (bench 5 7)) (fun t => (t.intStat, t.faultLog, t.busy)) =
      some (0#6, 0#6, false) := by decide

/-- V7.21: division by 0 retires with DONE and DIV0. -/
theorem test_div_by_zero :
    after (exec (.div regReg) (bench 5 0)) (fun t => (t.intStat, t.faultLog, t.busy)) =
      some (0x0A#6, 0x08#6, false) := by decide

/-- V7.23: T0 unbound. -/
theorem test_div_needs_scratch :
    exec (.div regReg) ((bench 5 7).setReg 30 ⟨false, 0#32, 0#32⟩) = .fault .unboundRegister := by
  rfl

/-- V7.24: without a fault event nothing is logged. -/
theorem test_reduce_retires :
    after (exec (.reduce regReg) (bench 5 7)) (fun t => (t.intStat, t.faultLog, t.busy)) =
      some (2#6, 0#6, false) := by decide

theorem test_modadd_and_modsub_retire :
    after (exec (.modadd regReg) (bench 5 7)) (fun t => (t.intStat, t.faultLog, t.busy)) =
      some (2#6, 0#6, false) ∧
    after (exec (.modsub regReg) (bench 5 7)) (fun t => (t.intStat, t.faultLog, t.busy)) =
      some (2#6, 0#6, false) := by decide

/-- Whether MULRED is raised is the parameter's (R133, R134); `busy` falls and DONE is set in either
case. -/
theorem test_modmul_and_modexp_retire (op : Opcode) (h : op = .modmul ∨ op = .modexp)
    (hr : (bench 5 7).ready op regReg) :
    ∃ t, exec (op.instr regReg) (bench 5 7) = .next t ∧ t.busy = false ∧
      t.intStat.getLsbD 1 = true := by
  have hc : clobbers op = [t0Id, t1Id] := by rcases h with rfl | rfl <;> rfl
  rcases alu_faults op ((bench 5 7).aluArgs op regReg) with hf | ⟨rfl, -⟩ | ⟨rfl, -⟩ | ⟨-, hf⟩
  · obtain ⟨v0, v1, e⟩ := exec_clobber hr hc hf
    exact ⟨_, e, rfl, (by decide : ((bench 5 7).intStatDone regReg).getLsbD 1 = true)⟩
  · simp at h
  · simp at h
  · obtain ⟨r, cr, z, v0, v1, e⟩ := exec_faulting hr hc hf
    exact ⟨_, e, rfl, (by decide : (0x22#6).getLsbD 1 = true)⟩

/-- V7.22: an even modulus. -/
theorem test_modinv_even_modulus :
    after (exec (.modinv regReg) (bench 10 3)) (fun t => (t.intStat, t.faultLog, t.busy)) =
      some (0x12#6, 0x10#6, false) := by decide

/-- V7.20: bytes of a register beyond the slot's length are neither read nor written. -/
theorem test_larger_register_keeps_its_tail :
    after (exec (.sub { regReg with res := 0 })
      { (bench 5 7).setReg 1 ⟨true, 64#32, 8#32⟩ with
        regTab := ((bench 5 7).regTab.set 0 ⟨true, 0#32, 40#32⟩).set 1 ⟨true, 64#32, 8#32⟩
        mem := Memory.write (Memory.write (bench 5 0xAAAA).mem 64 8 7) 32 8 0xBB })
      (fun t => (t.mem.read 0 8, t.mem.read 8 8, t.mem.read 32 8)) =
        some (0xFFFFFFFFFFFFFFFE, 0xAAAA, 0xBB) := by decide

/-- The checks of R121: an unconfigured slot (P5 (b)), a register that is too small (P3's variant). -/
theorem test_retire_model_faults :
    exec (.add { regReg with len := 7 }) (bench 5 7) = .fault .unconfiguredSlot ∧
    exec (.add regReg) ((bench 5 7).setSlot 0 ⟨true, 128#22, 128#22⟩) =
      .fault .registerTooSmall := ⟨rfl, rfl⟩

/-! ## Length slots (vectors V4) -/

/-- V4.1: the answer and the pair of slot 0. -/
theorem test_lenReq_pairs :
    after (exec (.lenReq 0x01#5 256#20) State.reset) (fun t => (t.lenRsp, t.slot 0)) =
      some (0x0000000A#32, ⟨true, 257#22, 320#22⟩) ∧
    after (exec (.lenReq 0x0C#5 1048575#20) State.reset) (fun t => (t.lenRsp, t.slot 0)) =
      some (0x00008002#32, ⟨true, 1048591#22, 1048640#22⟩) ∧
    after (exec (.lenReq 0x0C#5 48#20) State.reset) (fun t => (t.lenRsp, t.slot 0)) =
      some (0x00000004#32, ⟨true, 80#22, 128#22⟩) ∧
    after (exec (.lenReq 0x0A#5 63#20) State.reset) (fun t => (t.lenRsp, t.slot 0)) =
      some (0x00000004#32, ⟨true, 65#22, 128#22⟩) ∧
    after (exec (.lenReq 0x02#5 0#20) State.reset) (fun t => (t.lenRsp, t.slot 0)) =
      some (0x00000002#32, ⟨true, 64#22, 64#22⟩) := by decide

/-- V4.2 step 14: BAD_OPCODE leaves the table. -/
theorem test_lenReq_bad_opcode :
    after (exec (.lenReq 0x0D#5 64#20) (bench 5 7)) (fun t => (t.lenRsp, t.slot 0, t.slot 1)) =
      some (0x80000000#32, ⟨true, 64#22, 64#22⟩, ⟨false, 0#22, 0#22⟩) := by decide

/-- V4.1: LONGDIV doubles after rounding, with a floor of 192. -/
theorem test_longdiv_pairs :
    after (exec (.longdiv 96#20) State.reset) (fun t => (t.lenRsp, t.slot 0)) =
      some (0x00000008#32, ⟨true, 256#22, 256#22⟩) ∧
    after (exec (.longdiv 1048575#20) State.reset) (fun t => (t.lenRsp, t.slot 0)) =
      some (0x00010000#32, ⟨true, 2097152#22, 2097152#22⟩) := by decide

/-- V4.2: another class reuses an exact pair. -/
theorem test_longdiv_reuses :
    after (exec (.longdiv 128#20) ((bench 5 7).setSlot 3 ⟨true, 256#22, 256#22⟩))
      (fun t => (t.lenRsp, t.slot 1)) = some (0x18000008#32, ⟨false, 0#22, 0#22⟩) := by decide

/-- V4.2 step 13: EXHAUSTED. -/
def fullSlots : State :=
  { State.reset with lenTab := Vector.ofFn (fun i : Fin 8 =>
      ⟨true, BitVec.ofNat 22 (64 * (i.val + 1)), BitVec.ofNat 22 (64 * (i.val + 1))⟩) }

theorem test_lenReq_exhausted :
    after (exec (.lenReq 0x02#5 576#20) fullSlots) (fun t => (t.lenRsp, t.slot 7)) =
      some (0x40000000#32, ⟨true, 512#22, 512#22⟩) := by decide

/-- V4.3, V4.4. -/
theorem test_lenReset :
    after (exec .lenReset fullSlots) (fun t => (t.slot 0, t.slot 7)) =
      some (⟨false, 0#22, 0#22⟩, ⟨false, 0#22, 0#22⟩) ∧
    exec .lenReset (queued 1) = .fault .slotResetWhileBusy := ⟨by decide, rfl⟩

/-- V4.1: the views of slot 0. -/
theorem test_len_views :
    after (exec (.rdLenBits 0) (bench 5 7)) (fun t => t.readData) = some 0x80000040#32 ∧
    after (exec (.rdLenFull 0) (bench 5 7)) (fun t => t.readData) = some 0x00000040#32 ∧
    after (exec .rdLenRsp { bench 5 7 with lenRsp := 0x80000000#32 }) (fun t => t.readData) =
      some 0x80000000#32 := by decide

/-! ## Register ids (vectors V5) -/

/-- V5.1: SramStore's answer 0x28 binds R1 with 40 zeroed bytes. -/
theorem test_regAlloc_binds :
    after (State.allocateWith (some 0x28) 1 40
        { State.reset with mem := Memory.write [] 0x28 8 0x1122334455667788 })
      (fun t => (t.regRsp, t.reg 1, t.live, t.mem.isEmpty)) =
        some (0x00000001#32, ⟨true, 0x28#32, 40#32⟩, [(0x28, 40)], true) := by decide

/-- V5.2: BAD_SLOT, legal while the block is busy. -/
theorem test_regAlloc_bad_slot :
    after (exec (.regAlloc 5) (bench 5 7)) (fun t => t.regRsp) = some 0x60000000#32 := by decide

/-- R108: an id that is not reserved, and a reserved id that is occupied, are BAD_ID. -/
theorem test_regBind_bad_id :
    after (exec (.regBind 3 0) (bench 5 7)) (fun t => t.regRsp) = some 0x80000000#32 ∧
    after (exec (.regBind 30 0) (bench 5 7)) (fun t => t.regRsp) = some 0x80000000#32 := by decide

/-- P4: T0 bound at 0x18. -/
theorem test_regBind_binds :
    after (State.allocateWith (some 0x18) 30 8 State.reset) (fun t => (t.regRsp, t.reg 30)) =
      some (0x0000001E#32, ⟨true, 0x18#32, 8#32⟩) := by decide

/-- P3 step 14, V5.10: a free id answers OK and touches nothing. -/
theorem test_regFree :
    after (exec (.regFree 1) (queued 0))
      (fun t => (t.regRsp, t.reg 1, t.mem.read 8 8, t.live)) =
        some (0x00000001#32, ⟨false, 0#32, 0#32⟩, 0, [(0, 8), (16, 8), (24, 8), (32, 8)]) ∧
    after (exec (.regFree 9) (bench 5 7)) (fun t => (t.regRsp, t.mem.read 8 8)) =
      some (0x00000009#32, 7) := by decide

theorem test_regFree_while_busy :
    exec (.regFree 1) (queued 1) = .fault .sramAccessWhileBusy := rfl

/-- V5.1: the views of R1. -/
theorem test_reg_views :
    after (exec (.rdRegSize 1) (bench 5 7)) (fun t => t.readData) = some 0x80000008#32 ∧
    after (exec (.rdRegAddr 1) (bench 5 7)) (fun t => t.readData) = some 0x00000008#32 ∧
    after (exec .rdRegRsp { bench 5 7 with regRsp := 0x1E#32 }) (fun t => t.readData) =
      some 0x1E#32 := by decide

/-! ## The arena (vector V5.11) -/

/-- V5.11: byte order. -/
theorem test_sramWr32_is_little_endian :
    after (exec (.sramWr32 0#32 0x76543210#32) State.reset)
      (fun t => (t.mem.readByte 0, t.mem.readByte 1, t.mem.readByte 2, t.mem.readByte 3)) =
        some (0x10#8, 0x32#8, 0x54#8, 0x76#8) := by decide

theorem test_sramRd32_reads_a_word :
    after (exec (.sramRd32 4#32) { State.reset with mem := Memory.write [] 0 8 0xFEDCBA9876543210 })
      (fun t => t.readData) = some 0xFEDCBA98#32 := by decide

/-- The last word of the arena is the last legal access (R44). -/
theorem test_arena_bounds :
    after (exec (.sramWr32 0x3FC#32 1#32) State.reset) (fun t => t.mem.readByte 0x3FC) =
      some 1#8 ∧
    exec (.sramRd32 0x400#32) State.reset = .refused .outsideArena := ⟨by decide, rfl⟩

/-! ## The dispatcher (vectors V6) -/

/-- V6.1: STATUS with 0, 1, 2, 3 and 4 words queued. -/
theorem test_status_as_the_fifo_fills :
    after (exec .rdStatus State.reset) (fun t => t.readData) = some 0x00001600#32 ∧
    after (exec .rdStatus (queued 1)) (fun t => t.readData) = some 0x00000401#32 ∧
    after (exec .rdStatus (queued 2)) (fun t => t.readData) = some 0x00000002#32 ∧
    after (exec .rdStatus (queued 4)) (fun t => t.readData) = some 0x00000104#32 := by decide

/-- V6.2: the fifth PUSH is lost. -/
theorem test_push_overflow :
    after (exec (.push 0x180460C0#32) (queued 4)) (fun t => (t.fifo.length, t.intStat, t.faultLog)) =
      some (4, 0x04#6, 0x04#6) := by decide

theorem test_push_stores_reserved_bits_as_zero :
    after (exec (.push 0x0A18855F#32) (queued 0)) (fun t => t.fifo) = some [0x0A188540#32] := by
  decide

/-- V6.3: the pop that starts at the watermark, and the next one. -/
theorem test_pop_watermark :
    after (step { queued 2 with sched := [turn .engine] })
      (fun t => (t.fifo.length, t.busy, t.intStat)) = some (1, true, 0x01#6) ∧
    after (step { queued 1 with sched := [turn .engine] })
      (fun t => (t.fifo.length, t.busy, t.intStat)) = some (0, true, 0x00#6) := by decide

/-- V6.4: SUBMIT into a full FIFO under POLL, and its completing step after a pop. -/
theorem test_submit_blocks_and_completes :
    after (exec (.submit 0x08002240#32) (queued 4)) (fun t => (t.hwait, t.held, t.fifo.length)) =
      some (.roomCheck, some 0x08002240#32, 4) ∧
    after (step { queued 3 with
        hwait := .roomCheck, held := some 0x08002240#32, sched := [turn .host] })
      (fun t => (t.hwait, t.held, t.fifo.length, t.faultLog)) =
        some (.none, none, 4, 0#6) := by decide

/-- R77: WAIT_ROOM on a full FIFO blocks; its CHECK under EVENT arms. -/
theorem test_waitRoom_arms :
    after (exec .waitRoom (event (queued 4))) (fun t => (t.hwait, t.intMask)) =
      some (.roomCheck, 0x3F#6) ∧
    after (step { event (queued 4) with hwait := .roomCheck, sched := [turn .host] })
      (fun t => (t.hwait, t.intMask)) = some (.roomArmed, 0x02#6) := by decide

/-- V6.6, V6.7: WAIT_IDLE under EVENT arms while not idle and completes at once when idle. -/
theorem test_waitIdle :
    after (step { event (queued 1) with hwait := .idleCheck, sched := [turn .host] })
      (fun t => (t.hwait, t.intMask)) = some (.idleArmed, 0x01#6) ∧
    after (exec .waitIdle (event (queued 0))) (fun t => (t.hwait, t.intMask, t.readData)) =
      some (.none, 0x3F#6, 0x00001600#32) := by decide

/-- V6.8: a latched cause is unmasked. -/
theorem test_wrIntMask_unmasks :
    after (exec (.wrIntMask 0x3D#6) { queued 0 with intStat := 0x02#6 }) (fun t => t.irqAlu) =
      some true ∧
    after (exec .rdTopPend { queued 0 with intStat := 0x02#6, intMask := 0x3D#6 })
      (fun t => t.readData) = some 1#32 ∧
    after (exec .rdIntMask { queued 0 with intMask := 0x3D#6 }) (fun t => t.readData) =
      some 0x3D#32 := by decide

/-- V6.3: the latches are cleared, the log is not. -/
theorem test_wrIntStat_clears :
    after (exec (.wrIntStat 0x05#6) { queued 0 with intStat := 0x07#6, faultLog := 0x04#6 })
      (fun t => (t.intStat, t.faultLog)) = some (0x02#6, 0x04#6) ∧
    after (exec .rdIntStat { queued 0 with intStat := 0x05#6 }) (fun t => t.readData) =
      some 5#32 ∧
    after (exec .rdFaultLog { queued 0 with faultLog := 0x04#6 }) (fun t => t.readData) =
      some 4#32 := by decide

/-- V6.9: a read of CMD_FIFO returns 0, a write of STATUS is ignored. -/
theorem test_unanswered_accesses :
    after (step { queued 0 with program := [.coded (.bus 0b0000000000000#13 0#32)], readData := 9#32 })
      (fun t => (t.readData, t.program)) = some (0#32, []) ∧
    after (step { queued 0 with
        program := [.coded (.bus 0b1000000000100#13 0xFFFFFFFF#32)], readData := 9#32 })
      (fun t => (t.readData, t.program)) = some (9#32, []) := by decide

/-! ## The demultiplexer (vector V8.2) -/

theorem test_demux_serves_done_first :
    after (Host.Core.run Sys2Proof.core 3 { event (queued 0) with
        intStat := 0x0A#6, intMask := 0x01#6, sched := List.replicate 3 (turn (.demux none)) })
      (fun t => (t.intStat, t.intMask, t.sigFifo, t.sigDone, t.demux)) =
        some (0x08#6, 0x03#6, false, true, .idle) := by decide

/-- V8.4: the turn may name the other cause. -/
theorem test_demux_order_is_the_turns :
    after (step { event (queued 0) with
        intStat := 0x0A#6, intMask := 0x01#6, sched := [turn (.demux (some .div0))] })
      (fun t => (t.intMask, t.demux)) = some (0x09#6, .masked .div0) := by decide

/-- R83, R157: under POLL the cause the HOST has unmasked itself is not served. -/
theorem test_demux_takes_no_step_under_poll :
    after (step { queued 0 with
        intStat := 0x0A#6, intMask := 0x01#6, sched := [turn (.demux (some .div0))] })
      (fun t => (t.intStat, t.intMask, t.demux)) = some (0x0A#6, 0x01#6, .idle) := by decide

/-! ## Running from reset -/

/-- P5 (a): an unassigned opcode hangs the ENGINE; the HOST's program ends in a wait: stuck. -/
theorem test_unassigned_opcode_is_stuck :
    Host.Core.run Sys2Proof.core 4 { State.reset with
        program := [.coded (.bus 0x1000#13 0x68000000#32), .coded (.bus 0x0038#13 0#32)] } =
      .fault .stuck := rfl

/-- With nothing to do the run has ended (R180). -/
theorem test_reset_has_ended : step State.reset = .refused .runEnded := rfl

/-- A bus address is routed through its window (R39, R41). -/
theorem test_routing :
    routeAccess Params.example (.mmio true 4 0x03C#32 7#32) =
      .ok (.bus 0b1000000111100#13 7#32) ∧
    routeAccess Params.example (.mmio false 4 0x1028#32 0#32) = .ok (.sram 0x28#33 0#32) ∧
    routeAccess Params.example (.mmio false 4 0x200#32 0#32) = .error .noDevice := by decide

/-- A row's word placed by the host is run by the very next step. -/
theorem test_withFetchWord :
    step ((queued 0).withFetchWord 16 0x0004) = .next { queued 0 with readData := 0x00001600#32 } ∧
    step (State.reset.withFetchWord 32 0xF8000040) =
      exec (.longdiv 64#20) State.reset := ⟨rfl, rfl⟩

/-! ## Witnesses: for each statement with hypotheses, concrete values that meet them, each clause at a
boundary of its range -/

/-- The ENGINE holds ADD and has the turn. -/
def adding : State := { bench 5 7 with cur := 0x08002240#32, sched := [turn .engine] }

/-- The HOST has the turn and one access left. -/
def hosting (p : BitVec 13) (d : Word) (s : State) : State :=
  { s with program := [.coded (.bus p d)], sched := [turn .host] }

/-- The DEMUX has the turn. -/
def serving (pick : Option Cause) (s : State) : State := { s with sched := [turn (.demux pick)] }

theorem adding_ok : adding.ok :=
  ⟨bench_ok.1, bench_ok.2.1, ⟨by decide, by simp [adding, bench, State.reset, State.resetWith], by
    decide⟩, bench_ok.2.2.2⟩

/-- `step` answers a next state. -/
def steps (s : State) : Prop := ∃ t, step s = .next t

theorem test_witness_DecodeOfEncodeIsIdentity :
    Instr.wf (.sramWr32 0xFFFFFFFC#32 0xFFFFFFFF#32) = true ∧
    Instr.wf (.lenReq 0x1E#5 0xFFFFF#20) = true ∧ Instr.wf (.rdRegSize 31) = true := by decide

theorem test_witness_AssembleIsShiftsAndOrs :
    Cmd.assemble 0x1F#5 ⟨7, 31, true, 31, 31, true, true, true⟩ =
      Cmd.assemble 0x1F#5 ⟨7, 31, true, 31, 31, true, true, true⟩ := rfl

theorem test_witness_StepRunsTheFetchedInstruction :
    (adding.sched = [turn .engine] ∧ adding.busy = true ∧
      decode (.command adding.cur) = .ok (.add regReg)) ∧
    (({ adding with sched := [] } : State).hostEnabled = false ∧
      ({ adding with sched := [] } : State).engineEnabled = true) ∧
    ({ hosting 0x0004#13 0#32 (queued 0) with sched := [] } : State).hostEnabled = true ∧
    (({ event (queued 0) with demux := .masked .done } : State).hostEnabled = false ∧
      ({ event (queued 0) with demux := .masked .done } : State).engineEnabled = false ∧
      ({ event (queued 0) with demux := .masked .done } : State).demuxEnabled = true) ∧
    ((hosting 0x0004#13 0#32 (queued 0)).hwait = .none ∧
      routeAccess (queued 0).cfg (.coded (.bus 0x0004#13 0#32)) = .ok (.bus 0x0004#13 0#32) ∧
      decode (.host (.bus 0x0004#13 0#32)) = .ok .rdStatus) := by decide

theorem test_witness_PopTakesTheHead :
    (queued 2).busy = false ∧ (queued 2).fifo = [0x18002080#32, 0x18002080#32] ∧
    (queued 0).fifo = [] ∧ (turn .engine).act = .engine ∧
    adding.sched = [turn .engine] ∧ adding.busy = true := by decide

theorem test_witness_PopTakesTheHead_busy : steps adding := ⟨_, rfl⟩

/-- A full FIFO behind an unassigned opcode, in each of the two waits. -/
def hung (w : HWait) (cur : Word) : State :=
  { queued 4 with busy := true, cur := cur, hwait := w, sched := [turn .engine] }

theorem test_witness_UnassignedOpcodeHangsTheEngine :
    ((opcField (hung .roomCheck 0x68000000#32).cur).toNat = 0x0D ∧
      (opcField (hung .idleCheck 0x00000000#32).cur).toNat = 0 ∧
      (hung .roomCheck 0x68000000#32).cfg.fifoDepth ≤
        (hung .roomCheck 0x68000000#32).fifo.length) ∧
    steps (hung .roomCheck 0x68000000#32) ∧ steps (hung .idleCheck 0x00000000#32) :=
  ⟨by decide, ⟨_, rfl⟩, ⟨_, rfl⟩⟩

theorem test_witness_EngineLeavesTheRestAlone :
    adding.nextAgent = .engine ∧ steps adding ∧
    ({ queued 2 with sched := [turn .engine] } : State).nextAgent = .engine ∧
    steps { queued 2 with sched := [turn .engine] } := ⟨rfl, ⟨_, rfl⟩, rfl, ⟨_, rfl⟩⟩

theorem test_witness_QueuedWordsAreNeverChanged :
    steps { queued 2 with sched := [turn .engine] } ∧
    steps (hosting 0x1000#13 0x18002080#32 (queued 3)) := ⟨⟨_, rfl⟩, ⟨_, rfl⟩⟩

theorem test_witness_FlagsAreSeenOnlyThroughReads :
    steps (hosting 0x0004#13 0#32 (queued 0)) ∧
    step (hosting 0x1020#13 0#32 (queued 1)) = .fault .slotResetWhileBusy ∧
    step (hosting 0x0006#13 0#32 (queued 1)) = .refused .misalignedAccess :=
  ⟨⟨_, rfl⟩, rfl, rfl⟩

theorem test_witness_AddRetires :
    (bench 5 7).ready .add regReg ∧ (bench 5 7).ready .add (regImm 31) ∧
    (bench 5 7).ready .add { regReg with res := 0 } := by decide

theorem test_witness_SubRetires :
    (bench 5 7).ready .sub regReg ∧ (bench 5 7).ready .sub (regImm 0) := by decide

/-- CMP is ready also where RES is unoccupied. -/
theorem test_witness_CmpRetires :
    (bench 5 7).ready .cmp { regReg with res := 9 } ∧
    0x1FFFFFFF#32 &&& 0xF8000000#32 = 0x18000000#32 := by decide

theorem test_witness_ParameterCommandsRetire :
    (bench 5 7).ready .shift (regImm 17) ∧ (bench 5 7).ready .logic regReg ∧
    (bench 5 7).ready .modadd regReg ∧ (bench 5 7).ready .modsub regReg := by decide

/-- MODMUL and MODEXP meet the premise of this statement or of the next, as the parameter decides. -/
theorem test_witness_ClobberingCommandsRetire :
    ((bench 5 7).ready .reduce regReg ∧
      (bench 5 7).ready .div regReg ∧ (bench 5 1).valB regReg ≠ 0 ∧
      (bench 5 7).ready .modinv regReg ∧
      (bench 1 7).regBytes nId ((bench 1 7).cmdLb regReg) % 2 = 1) ∧
    ((bench 5 7).ready .modmul { regReg with opB := 1 } ∧ (bench 5 7).ready .modexp regReg) ∧
    ∀ op, aluMulRed ((bench 5 7).aluArgs op regReg) = false ∨
      aluMulRed ((bench 5 7).aluArgs op regReg) = true :=
  ⟨by decide, by decide, fun op => by cases aluMulRed ((bench 5 7).aluArgs op regReg) <;> simp⟩

theorem test_witness_FaultingCommandsStillRetire :
    (bench 5 0).ready .div regReg ∧ (bench 5 0).valB regReg = 0 ∧
    (bench 0 7).ready .modinv regReg ∧
    (bench 0 7).regBytes nId ((bench 0 7).cmdLb regReg) % 2 = 0 := by decide

theorem test_witness_RetireChecksInOrder :
    ((bench 5 7).slot 1).occ = false ∧
    (checkedRegs .div regReg = [0, 1, 2] ++ 30 :: [31] ∧
      (∀ j ∈ [0, 1, 2], (bench 5 7).fits j 64) ∧
      (((bench 5 7).setReg 30 ⟨false, 0#32, 0#32⟩).reg 30).occ = false ∧
      8 * (((bench 5 7).setReg 30 ⟨true, 24#32, 7#32⟩).reg 30).size.toNat < 64) ∧
    (bench 5 7).ready .div regReg := by decide

/-- The bytes beside the result's are outside the stored bytes, its own are not. -/
theorem test_witness_CommandFrame :
    (∃ t, exec (.add regReg) (bench 5 7) = .next t) ∧
    ¬ (bench 5 7).cmdStores .add regReg 15 ∧ (bench 5 7).cmdStores .add regReg 16 ∧
    (bench 5 7).cmdStores .add regReg 23 ∧ ¬ (bench 5 7).cmdStores .add regReg 24 := by
  refine ⟨⟨_, rfl⟩, ?_, ?_, ?_, ?_⟩ <;> unfold State.cmdStores <;> decide

theorem test_witness_WrittenResultIsReadBack :
    (bench 5 7).mem.wf ∧ regReg.discard = false ∧ (bench 5 7).cmdLb regReg % 8 = 0 ∧
    (bench 5 7).ready .add { regReg with res := 0 } ∧ (bench 5 7).ready .sub regReg := by decide

/-- Operands of `n` bits over `lb` bits. -/
def args (lb a b : Nat) : AluArgs := ⟨1#5, lb, lb, a, b, false, []⟩

theorem test_witness_AdditiveArithmeticLaws :
    (args 64 9 9).a < 2 ^ 64 ∧ (args 64 9 9).b ≤ (args 64 9 9).a ∧
    (args 64 0 (2 ^ 64 - 1)).a < (args 64 0 (2 ^ 64 - 1)).b ∧
    (args 64 0 0).lb = lenFull .addc 63 ∧ (args 64 (2 ^ 63 - 1) (2 ^ 63 - 1)).a < 2 ^ 63 := by
  decide

theorem test_witness_ArenaIsLittleEndian :
    (bench 5 7).mem.wf ∧ (7 < 8) ∧ 4 * 1 + 4 ≤ 8 := by decide

theorem test_witness_HostArenaAccesses :
    ((0x3FC#32).toNat % 4 = 0 ∧ (0x3FC#32).toNat + 4 ≤ (queued 0).cfg.sramSize ∧
      (queued 0).isIdle = true ∧ (queued 0).mem.wf) ∧
    (0x3FD#32).toNat % 4 ≠ 0 ∧
    ((0x400#32).toNat % 4 = 0 ∧ (queued 0).cfg.sramSize < (0x400#32).toNat + 4) := by decide

theorem test_witness_ArenaAccessNeedsIdleness :
    ((queued 1).fifo ≠ [] ∧ (bench 5 7).busy = true) ∧
    ((0x3FC#32).toNat % 4 = 0 ∧ (0x3FC#32).toNat + 4 ≤ (queued 1).cfg.sramSize) ∧
    (((queued 1).slot 0).occ = true ∧ isReserved 29 = false ∧ ((queued 1).reg 29).occ = false) ∧
    (isReserved 30 = true ∧
      (((queued 1).setReg 30 ⟨false, 0#32, 0#32⟩).reg 30).occ = false) ∧
    ((queued 1).reg 31).occ = true := by decide

theorem test_witness_PushAppendsOrOverflows :
    (queued 3).fifo.length < (queued 3).cfg.fifoDepth ∧
    (queued 4).cfg.fifoDepth ≤ (queued 4).fifo.length := by decide

theorem test_witness_RoomWaitsCompleteAtOnceOrBlock :
    (queued 3).intMask =
      (if (queued 3).cfg.policy = .event then (queued 3).intMask ||| 1#6
       else (queued 3).intMask) ∧
    (event (queued 3)).cfg.policy = .event ∧
    (queued 3).fifo.length < (queued 3).cfg.fifoDepth ∧
    (queued 4).cfg.fifoDepth ≤ (queued 4).fifo.length := by decide

theorem test_witness_IdleWaitCompletesAtOnceOrBlocks :
    ((queued 0).fifo = [] ∧ (queued 0).busy = false) ∧ (queued 1).fifo ≠ [] ∧
    (bench 5 7).busy = true := by decide

/-- A wait that is open, with the HOST's turn. -/
def waiting (w : HWait) (s : State) : State := { s with hwait := w, sched := [turn .host] }

theorem test_witness_PollWaitSteps :
    (waiting .roomCheck (queued 3)).cfg.policy = .poll ∧
    (waiting .roomCheck (queued 3)).sched = [turn .host] ∧
    (waiting .roomCheck (queued 3)).held = none ∧
    ({ waiting .roomCheck (queued 3) with held := some 1#32 } : State).held = some 1#32 ∧
    (waiting .roomCheck (queued 4)).cfg.fifoDepth ≤
      (waiting .roomCheck (queued 4)).fifo.length ∧
    ((waiting .idleCheck (queued 0)).fifo = [] ∧ (waiting .idleCheck (queued 0)).busy = false) ∧
    (waiting .idleCheck (queued 1)).fifo ≠ [] := by decide

theorem test_witness_EventWaitSteps :
    (event (waiting .roomCheck (queued 3))).cfg.policy = .event ∧
    (event (waiting .roomCheck (queued 3))).held = none ∧
    ({ event (waiting .roomCheck (queued 3)) with held := some 1#32 } : State).held =
      some 1#32 ∧
    (event (waiting .roomCheck (queued 4))).cfg.fifoDepth ≤
      (event (waiting .roomCheck (queued 4))).fifo.length ∧
    (event (waiting .roomArmed (queued 4))).hwait = .roomArmed ∧
    (event (waiting .idleCheck (queued 0))).fifo = [] ∧
    (event (waiting .idleCheck (bench 5 7))).busy = true ∧
    (event (waiting .idleArmed (queued 0))).hwait = .idleArmed := by decide

/-- A wait for room and a wait for idleness that the step closes. -/
theorem test_witness_OpenWaitHoldsTheHost :
    after (step (waiting .roomCheck (queued 3))) (fun t => t.hwait) = some .none ∧
    after (step (waiting .idleCheck (queued 0))) (fun t => t.hwait) = some .none ∧
    after (step (waiting .roomCheck (queued 4))) (fun t => t.hwait) = some .roomCheck := by decide

theorem test_witness_OverflowOnlyFromRawPush :
    (queued 4).faultLog.getLsbD 2 = false ∧
    after (step (hosting 0x1000#13 0x18002080#32 (queued 4)))
      (fun t => (t.faultLog.getLsbD 2, t.intStat.getLsbD 2)) = some (true, true) := by decide

theorem test_witness_StatusFields :
    ({ queued 0 with fifo := List.replicate 255 0#32 } : State).fifo.length ≤ 255 ∧
    Params.legal Params.example :=
  ⟨Nat.le_of_eq (List.length_replicate (n := 255) (a := 0#32)), by decide⟩

theorem test_witness_UnansweredAccesses :
    ((0x0000#13).toNat ∈ [0x000, 0x018, 0x020, 0x024, 0x028, 0x02C, 0x03C] ∧
      (0x003C#13).toNat ∈ [0x000, 0x018, 0x020, 0x024, 0x028, 0x02C, 0x03C] ∧
      ((0x0180#13).toNat % 4 = 0 ∧ 0x180 ≤ (0x0180#13).toNat) ∧
      ((0x01FC#13).toNat % 4 = 0 ∧ (0x01FC#13).toNat ≤ 0x1FC)) ∧
    ((0x1004#13).toNat ∈ [0x1004, 0x1010, 0x1014, 0x101C, 0x1030, 0x1034, 0x1038] ∧
      (0x1038#13).toNat ∈ [0x1004, 0x1010, 0x1014, 0x101C, 0x1030, 0x1034, 0x1038] ∧
      ((0x1040#13).toNat % 4 = 0 ∧ 0x1040 ≤ (0x1040#13).toNat) ∧
      ((0x11FC#13).toNat % 4 = 0 ∧ (0x11FC#13).toNat ≤ 0x11FC)) ∧
    (hosting 0x003C#13 0#32 (queued 0)).hwait = .none ∧
    (hosting 0x003C#13 0#32 (queued 0)).sched = [turn .host] := by decide

theorem test_witness_PendingNeedsLatchAndUnmasked :
    ({ queued 0 with intStat := 0x28#6, intMask := 0x08#6 } : State).choose none =
      some .mulRed ∧
    ({ queued 0 with intStat := 0x28#6, intMask := 0x08#6 } : State).irqAlu = true := by decide

theorem test_witness_DemuxTurns :
    (turn .sibling).act = .sibling ∧ (queued 0).cfg.policy = .poll ∧
    (event (queued 0)).cfg.policy = .event ∧
    (serving (some .div0) { event (queued 0) with intStat := 0x0A#6, intMask := 0x01#6 }).choose
      (some .div0) = some .div0 ∧
    (serving none (event (queued 0))).choose none = none ∧
    ({ event (queued 0) with demux := .masked .fifoWm } : State).demux = .masked .fifoWm ∧
    ({ event (queued 0) with demux := .released .mulRed } : State).demux = .released .mulRed := by decide

theorem test_witness_DemuxPassServesOneCause :
    ({ event (queued 0) with intStat := 0x20#6, intMask := 0x1F#6 } : State).cfg.policy = .event ∧
    ({ event (queued 0) with intStat := 0x20#6, intMask := 0x1F#6 } : State).demux = .idle ∧
    ({ event (queued 0) with intStat := 0x20#6, intMask := 0x1F#6 } : State).pending .mulRed =
      true := by decide

theorem test_witness_FaultLogOnlyGrows :
    after (step (hosting 0x1000#13 0#32 { queued 4 with faultLog := 0x20#6 }))
      (fun t => (t.faultLog, t.intStat)) = some (0x24#6, 0x04#6) := by decide

theorem test_witness_BenignLatchesHaveOneCause :
    after (step { queued 2 with sched := [turn .engine] }) (fun t => t.intStat.getLsbD 0) =
      some true ∧
    after (step adding) (fun t => t.intStat.getLsbD 1) = some true := by decide

/-- The ENGINE's turn meets the premise also where the HOST's next access writes INT_MASK. -/
theorem test_witness_PollingBypassesInterrupts :
    (adding.cfg.policy = .poll ∧ adding.intMask = 0x3F#6) ∧
    ({ adding with intStat := 0x20#6 } : State).intStat.getLsbD 5 = true ∧
    steps { adding with program := [.coded (.bus 0x100C#13 0#32)] } ∧
    ({ adding with program := [.coded (.bus 0x100C#13 0#32)] } : State).nextAgent ≠ .host :=
  ⟨by decide, by decide, ⟨_, rfl⟩, by decide⟩

theorem test_witness_LenRequestReusesTheMatch :
    lenRequestOf (.lenReq 0x03#5 64#20) = some (.floor, 64) ∧ (bench 5 7).lenTabOk ∧
    ((bench 5 7).slot 0).occ = true ∧ ((bench 5 7).slot 0).bits.toNat = lenBits .floor 64 ∧
    ((bench 5 7).slot 0).full.toNat = lenFull .floor 64 := by decide

theorem test_witness_LenRequestClaimsTheLeastFreeSlot :
    lenRequestOf (.longdiv 0xFFFFF#20) = some (.longdiv, 1048575) ∧
    (∀ j : SlotId, ((bench 5 7).slot j).occ = true →
      ¬ (((bench 5 7).slot j).bits.toNat = lenBits .longdiv 1048575 ∧
        ((bench 5 7).slot j).full.toNat = lenFull .longdiv 1048575)) ∧
    ((bench 5 7).slot 1).occ = false ∧
    (∀ j : SlotId, j < 1 → ((bench 5 7).slot j).occ = true) := by decide

theorem test_witness_LenRequestFailures :
    (lenRequestOf (.lenReq 0x02#5 576#20) = some (.floor, 576) ∧
      ∀ j : SlotId, (fullSlots.slot j).occ = true ∧
        ¬ ((fullSlots.slot j).bits.toNat = lenBits .floor 576 ∧
          (fullSlots.slot j).full.toNat = lenFull .floor 576)) ∧
    ((0x00#5).toNat = 0 ∧ 0x0D ≤ (0x0D#5).toNat ∧ (0x1E#5).toNat ≠ 0x1F) := by decide

theorem test_witness_AdjustedLengths :
    ((0 : Nat) ≤ 1048575 ∧ 1048575 ≤ 1048575) ∧ (0x00#5).toNat = 0 ∧
    (0x0D ≤ (0x0D#5).toNat ∧ (0x0D#5).toNat ≠ 0x1F) ∧ (0x1E#5).toNat ≠ 0x1F := by decide

theorem test_witness_LenResetFreesEverySlot :
    ((queued 0).fifo = [] ∧ (queued 0).busy = false) ∧ (queued 1).fifo ≠ [] ∧
    (bench 5 7).busy = true := by decide

theorem test_witness_OccupiedSlotKeepsItsPair :
    (adding.slot 0).occ = true ∧
    after (step adding) (fun t => (t.slot 0).occ) = some true := by decide

/-- Every pool id occupied. -/
def fullRegs : State :=
  { queued 0 with regTab := Vector.ofFn (fun i : Fin 32 =>
      ⟨decide (i.val < 30), BitVec.ofNat 32 (8 * i.val), 8#32⟩) }

theorem test_witness_RegAllocAnswers :
    ((queued 0).slot 7).occ = false ∧
    ((fullRegs.slot 0).occ = true ∧ ∀ i : RegId, i.val < 30 → (fullRegs.reg i).occ = true) ∧
    (((fullRegs.setReg 29 ⟨false, 0#32, 0#32⟩).reg 29).occ = false ∧
      (∀ j : RegId, j < 29 → ((fullRegs.setReg 29 ⟨false, 0#32, 0#32⟩).reg j).occ = true) ∧
      (fullRegs.setReg 29 ⟨false, 0#32, 0#32⟩).isIdle = true) := by decide

theorem test_witness_RegBindAnswers :
    (29 < 30 ∧ ((queued 0).reg 30).occ = true) ∧
    ((fullRegs.reg 30).occ = false ∧ (fullRegs.slot 1).occ = false) ∧
    ((fullRegs.reg 31).occ = false ∧ (fullRegs.slot 0).occ = true ∧ fullRegs.isIdle = true) := by
  decide

theorem test_witness_RegFreeZeroesAndReleases :
    (((queued 0).reg 31).occ = true ∧ (queued 0).isIdle = true) ∧
    ((queued 0).reg 3).occ = false ∧ ((queued 1).reg 0).occ = true ∧
    (queued 1).isIdle = false := by decide

theorem queued_ok : (queued 0).ok :=
  ⟨bench_ok.1, bench_ok.2.1, ⟨by decide, by simp [queued], by decide⟩, bench_ok.2.2.2⟩

/-- REG_ALLOC binds R3 at 40 on SramStore's answer 40, and REG_FREE then runs. -/
theorem test_witness_AllocThenFreeRestores :
    (queued 0).ok ∧ ((queued 0).slot 0).occ = true ∧ (queued 0).freeReg = some 3 ∧
    legalRegion (queued 0).cfg (queued 0).live ((queued 0).slotBytes 0) 40 = true ∧
    ∃ t u, (queued 0).drawn.allocateWith (some 40) 3 ((queued 0).slotBytes 0) = .next t ∧
      t.mem.wf ∧ exec (.regFree 3) t = .next u :=
  ⟨queued_ok, by decide, by decide, by decide, _, _, rfl, by decide, rfl⟩

theorem test_witness_HostOperationFrame :
    (∃ t, exec (.submit 0#32) (queued 3) = .next t) ∧
    (∃ t, exec (.regFree 1) (queued 0) = .next t) ∧
    ∀ (op : Opcode) (c : Cmd), Instr.submit 0#32 ≠ op.instr c ∧ Instr.regFree 1 ≠ op.instr c :=
  ⟨⟨_, rfl⟩, ⟨_, rfl⟩, fun op c => by cases op <;> simp [Opcode.instr]⟩

theorem test_witness_BusAddressesReachTheirWindow :
    Params.legal Params.example ∧ 0x1FC < 0x200 ∧ 0x3FC < Params.example.sramSize ∧ 1 ≠ 4 := by
  decide

theorem test_witness_ResetIsIdleEmptyAndMasked :
    State.reset = State.resetWith Params.example [] := rfl

theorem test_witness_ResetMeetsTheInvariants :
    Params.legal Params.example ∧ Memory.wf (bench 5 7).mem ∧
    ∀ c ∈ (bench 5 7).mem, c.1 < Params.example.sramSize := by decide

theorem test_witness_ArenaStaysCanonicalAndInside : adding.ok ∧ steps adding :=
  ⟨adding_ok, _, rfl⟩

theorem test_witness_FifoStaysBounded : adding.fifoOk ∧ steps adding :=
  ⟨adding_ok.2.2.1, _, rfl⟩

theorem test_witness_LengthSlotsStayConsistent : adding.lenTabOk ∧ steps adding :=
  ⟨adding_ok.2.2.2.1, _, rfl⟩

theorem test_witness_RegisterBindingsStayValid :
    adding.cfg.legal ∧ adding.lenTabOk ∧ adding.regTabOk ∧ adding.liveOk ∧ steps adding :=
  ⟨adding_ok.1, adding_ok.2.2.2.1, adding_ok.2.2.2.2.1, adding_ok.2.2.2.2.2.1, _, rfl⟩

theorem test_witness_RegistersAndWaitsStayLegal :
    adding.logOk ∧ adding.rspOk ∧ adding.waitOk ∧ steps adding :=
  ⟨adding_ok.2.2.2.2.2.2.1, adding_ok.2.2.2.2.2.2.2.1, adding_ok.2.2.2.2.2.2.2.2, _, rfl⟩

end Sys2Proof.Tests
end

section
/-! PROOFS. The fields of STATUS (R26), its value after reset, and the obligation on both. -/

namespace Sys2Proof.Machine

/-! ## STATUS bit by bit -/

/-- The bits of STATUS above its count, bit 8 first and down to the last bit that is not reserved
(R26). -/
def State.statusFlags (s : State) : List Bool :=
  [decide (s.count = s.cfg.fifoDepth), decide (s.count = 0), decide (s.count < s.cfg.fifoWm),
    s.busy, s.isIdle, false, false, false, s.carry, s.zero]

/-- The count fills the low byte of STATUS. -/
theorem State.status_extract_count (s : State) :
    s.status.extractLsb' 0 8 = BitVec.ofNat 8 s.count := by
  rw [State.status, BitVec.extractLsb'_append_eq_of_add_le (by decide), BitVec.extractLsb'_eq_self]

/-- Above the count, STATUS is its flags and then 0. -/
theorem State.status_getLsbD_add_eight (s : State) (k : Nat) :
    s.status.getLsbD (8 + k) = s.statusFlags.getD k false := by
  simp only [State.status, BitVec.getLsbD_append]
  match k with
  | 0 | 1 | 2 | 3 | 4 | 5 | 6 | 7 | 8 | 9 => simp [State.statusFlags]
  | j + 10 => simp [State.statusFlags, show ¬ 8 + (j + 10) < 8 by omega]

theorem State.status_reserved_low (s : State) : s.status.extractLsb' 13 3 = 0#3 := by
  ext i hi
  rw [BitVec.getElem_extractLsb', show 13 + i = 8 + (5 + i) by omega,
    State.status_getLsbD_add_eight, BitVec.getElem_zero]
  interval_cases i <;> rfl

theorem State.status_reserved_high (s : State) : s.status.extractLsb' 18 14 = 0#14 := by
  ext i hi
  rw [BitVec.getElem_extractLsb', show 18 + i = 8 + (10 + i) by omega,
    State.status_getLsbD_add_eight, BitVec.getElem_zero]
  exact List.getD_eq_default _ _ (Nat.le_add_right 10 i)

/-- A depth and a watermark of at least 1 make the empty, idle block after reset read FIFO_EMPTY,
FIFO_BELOW_WM and IDLE, and no FIFO_FULL. -/
theorem State.status_resetWith {p : Config.Params} (m : Memory) (hdepth : 1 ≤ p.fifoDepth)
    (hwm : 1 ≤ p.fifoWm) : (State.resetWith p m).status = 0x00001600#32 := by
  have hfull : 0 ≠ p.fifoDepth := Nat.ne_of_lt hdepth
  have hbelow : 0 < p.fifoWm := hwm
  simp [State.status, State.resetWith, State.isIdle, State.count, hfull, hbelow]

theorem exec_rdStatus (s : State) : exec .rdStatus s = .next { s with readData := s.status } := rfl

end Sys2Proof.Machine

open Sys2Proof Sys2Proof.Machine

/-- Settles O32: field by field from the bits of STATUS, and the reset value from the legal depth and
watermark. -/
theorem statusFields : Obligations.StatusFields := by
  constructor
  · intro s hcount
    have flag := s.status_getLsbD_add_eight
    refine ⟨?_, ?full, ?empty, ?below, flag 3, ?idle, s.status_reserved_low, flag 8, flag 9,
      s.status_reserved_high, exec_rdStatus s⟩
    · rw [State.status_extract_count, BitVec.toNat_ofNat]
      exact Nat.mod_eq_of_lt (Nat.lt_succ_of_le hcount)
    case full => rw [flag 0]; exact decide_eq_true_iff
    case empty => rw [flag 1]; exact decide_eq_true_iff
    case below => rw [flag 2]; exact decide_eq_true_iff
    case idle => rw [flag 4, List.length_eq_zero_iff]; exact isIdle_iff
  · rintro p m ⟨hdepth, -, hwm, -⟩
    exact State.status_resetWith m hdepth hwm

end

section
/-! PROOFS. `MemRead` as a sum of bytes and as a slice of a longer operand (R42), and the obligation
on the arena's byte order. -/

namespace Sys2Proof.Machine.Memory

/-- `MemRead` weighs the byte at distance k from its offset by 256 ^ k. -/
theorem read_eq_sum (m : Memory) (a n : Nat) :
    read m a n = ∑ k ∈ Finset.range n, (readByte m (a + k)).toNat * 256 ^ k := by
  induction n generalizing a with
  | zero => rfl
  | succ n ih =>
    have shift (k : Nat) : (readByte m (a + (k + 1))).toNat * 256 ^ (k + 1) =
        256 * ((readByte m (a + 1 + k)).toNat * 256 ^ k) := by
      rw [Nat.add_right_comm a 1 k, Nat.add_assoc a k 1]; ring
    rw [read_succ, ih, Finset.sum_range_succ', Finset.sum_congr rfl fun k _ => shift k,
      ← Finset.mul_sum, Nat.pow_zero, Nat.mul_one]
    exact Nat.add_comm _ _

/-- A read of adjacent ranges: the bytes of the higher one stand above those of the lower one. -/
theorem read_add (m : Memory) (a i k : Nat) :
    read m a (i + k) = read m a i + 256 ^ i * read m (a + i) k := by
  induction i generalizing a with
  | zero => simp [read]
  | succ i ih =>
    rw [Nat.add_right_comm i 1 k, read_succ, read_succ, ih, Nat.add_assoc a 1 i, Nat.add_comm 1 i]
    ring

/-- Reading the low k bytes of a range is the operand modulo 256 ^ k. -/
theorem read_mod_pow (m : Memory) (a : Nat) {k n : Nat} (h : k ≤ n) :
    read m a n % 256 ^ k = read m a k := by
  obtain ⟨d, rfl⟩ := Nat.exists_eq_add_of_le h
  rw [read_add, Nat.add_mul_mod_self_left, Nat.mod_eq_of_lt (read_lt m a k)]

/-- Dividing an operand by 256 ^ i drops its i lowest bytes. -/
theorem read_div_pow (m : Memory) (a i k : Nat) :
    read m a (i + k) / 256 ^ i = read m (a + i) k := by
  rw [read_add, Nat.add_mul_div_left _ _ (by positivity), Nat.div_eq_of_lt (read_lt m a i),
    Nat.zero_add]

/-- A read inside an operand's range is a slice of the operand. -/
theorem read_slice (m : Memory) (a : Nat) {i k n : Nat} (h : i + k ≤ n) :
    read m (a + i) k = read m a n / 256 ^ i % 256 ^ k := by
  obtain ⟨d, rfl⟩ := Nat.exists_eq_add_of_le h
  rw [Nat.add_assoc, read_div_pow, read_mod_pow _ _ (Nat.le_add_right k d)]

/-- `MemWrite` keeps every read of a range that does not meet its own. -/
theorem read_write_disjoint (m : Memory) {a n b k : Nat} (v : Nat)
    (h : b + k ≤ a ∨ a + n ≤ b) : read (write m a n v) b k = read m b k :=
  read_congr fun _ _ => readByte_write_outside m v (by omega)

end Sys2Proof.Machine.Memory

open Sys2Proof Sys2Proof.Machine

/-- Settles O22: the sum by induction on the width, the host word as a slice of the operand, the
rest from the reads after a write. -/
theorem arenaIsLittleEndian : Obligations.ArenaIsLittleEndian := by
  intro m a n v hm
  refine ⟨Memory.read_eq_sum m a n, ?bytes, fun _ => Memory.readByte_write_outside m v,
    Memory.read_write_same hm a n v, fun _ _ => Memory.read_write_disjoint m v, ?hostWord⟩
  case bytes =>
    intro k hk
    rw [Memory.readByte_write_inside hm a n v k hk, BitVec.toNat_ofNat]
  case hostWord =>
    intro j hj
    have hpow : 256 ^ (4 * j) = 2 ^ (32 * j) := by
      rw [show 256 = 2 ^ 8 by decide, ← Nat.pow_mul, ← Nat.mul_assoc]
    have hword : 256 ^ 4 = 2 ^ 32 := by decide
    rw [Memory.read_slice m a hj, hpow, hword]

end

section
/-! PROOFS. The command word field by field (R57 to R59): what decoding reads from an assembled word,
what assembling makes of a decoded one, and the obligations on both directions. -/

namespace Sys2Proof

/-! ## Decoding an assembled word

The word is one append of fields of widths 1, 3 and 5. The width is named in each use of the library's
append lemmas, since the literal 32 in the type of the whole word shows no sum for them to match. -/

/-- The fields below the opcode id are passed over one by one. -/
@[simp] theorem opcField_assemble (opc : BitVec 5) (c : Cmd) : opcField (c.assemble opc) = opc := by
  simp [opcField, Cmd.assemble, BitVec.extractLsb'_append_eq_of_le (w := 1),
    BitVec.extractLsb'_append_eq_of_le (w := 3), BitVec.extractLsb'_append_eq_of_le (w := 5)]

theorem ofBool_beq_one (b : Bool) : (BitVec.ofBool b == 1#1) = b := by
  cases b <;> rfl

/-- Each field is reached by passing over those below it and dropping those above it; a flag is the
field of one bit. -/
@[simp] theorem Cmd.ofWord_assemble (opc : BitVec 5) (c : Cmd) :
    Cmd.ofWord (c.assemble opc) = c := by
  simp only [Cmd.ofWord, Cmd.assemble, BitVec.getLsbD_eq_extractLsb',
    BitVec.extractLsb'_append_eq_of_le (w := 1), BitVec.extractLsb'_append_eq_of_le (w := 5),
    BitVec.extractLsb'_append_eq_of_add_le (w := 1), BitVec.extractLsb'_append_eq_of_add_le (w := 3),
    BitVec.extractLsb'_append_eq_of_add_le (w := 5), Nat.reduceLeDiff, Nat.reduceSub, Nat.reduceAdd,
    Nat.le_refl, BitVec.extractLsb'_eq_self, ofBool_beq_one]

/-- The opcode id and the fields are read back, so an assembled word determines both (R58). -/
theorem Cmd.assemble_inj {o₁ o₂ : BitVec 5} {c₁ c₂ : Cmd} (h : c₁.assemble o₁ = c₂.assemble o₂) :
    o₁ = o₂ ∧ c₁ = c₂ := by
  have hopc := congrArg opcField h
  have hcmd := congrArg Cmd.ofWord h
  rw [opcField_assemble, opcField_assemble] at hopc
  rw [Cmd.ofWord_assemble, Cmd.ofWord_assemble] at hcmd
  exact ⟨hopc, hcmd⟩

/-! ## Assembling a decoded word -/

theorem ofBool_getLsbD {n : Nat} (w : BitVec n) (i : Nat) :
    BitVec.ofBool (w.getLsbD i) = w.extractLsb' i 1 := by
  ext j hj
  obtain rfl : j = 0 := Nat.lt_one_iff.mp hj
  simp

/-- Clearing bits 4:0 keeps the 27 bits above them. -/
theorem and_reservedMask (w : Word) : w &&& 0xFFFFFFE0#32 = w.extractLsb' 5 27 ++ 0#5 := by
  have hw : w.extractLsb' 5 27 ++ w.extractLsb' 0 5 = w :=
    BitVec.extractLsb'_append_extractLsb' (w := 27) (len := 5) (x := w)
  have hmask : 0xFFFFFFE0#32 = BitVec.allOnes 27 ++ 0#5 := by decide
  calc w &&& 0xFFFFFFE0#32
      = (w.extractLsb' 5 27 ++ w.extractLsb' 0 5) &&& (BitVec.allOnes 27 ++ 0#5) := by rw [hw, hmask]
    _ = w.extractLsb' 5 27 ++ 0#5 := by rw [Laws.RowMatch.append_mask, BitVec.and_allOnes]

/-- The nine fields of a word are adjacent: they join to its bits 31:5. -/
theorem Cmd.assemble_ofWord (w : Word) :
    (Cmd.ofWord w).assemble (opcField w) = w &&& 0xFFFFFFE0#32 := by
  rw [and_reservedMask]
  simp only [Cmd.assemble, Cmd.ofWord, opcField, BitVec.ofFin_toFin, ofBool_getLsbD,
    BitVec.extractLsb'_append_extractLsb'_eq_extractLsb']

theorem toNat_extractLsb'_eq_div_mod {n : Nat} (w : BitVec n) (i len : Nat) :
    (w.extractLsb' i len).toNat = w.toNat / 2 ^ i % 2 ^ len := by
  rw [BitVec.extractLsb'_toNat, Nat.shiftRight_eq_div_pow]

/-! ## Assembling by shifts -/

theorem setWidth_ofFin {n m : Nat} (x : Fin (2 ^ n)) :
    (BitVec.ofFin x).setWidth m = BitVec.ofNat m x.val :=
  BitVec.eq_of_toNat_eq (by rw [BitVec.toNat_setWidth, BitVec.toNat_ofNat, BitVec.toNat_ofFin])

/-- Widened to 32 bits, each append is a shift and an or, and a field's shifts add up. -/
theorem Cmd.assemble_eq_shifts (opc : BitVec 5) (c : Cmd) :
    c.assemble opc =
      (opc.setWidth 32 <<< 27) ||| (BitVec.ofNat 32 c.len.val <<< 24) |||
      (BitVec.ofNat 32 c.opA.val <<< 19) ||| ((BitVec.ofBool c.bImm).setWidth 32 <<< 18) |||
      (BitVec.ofNat 32 c.opB.val <<< 13) ||| (BitVec.ofNat 32 c.res.val <<< 8) |||
      ((BitVec.ofBool c.discard).setWidth 32 <<< 7) ||| ((BitVec.ofBool c.irq).setWidth 32 <<< 6) |||
      ((BitVec.ofBool c.req).setWidth 32 <<< 5) := by
  rw [← BitVec.setWidth_eq (c.assemble opc), Cmd.assemble]
  simp only [BitVec.setWidth_append_eq_shiftLeft_setWidth_or (w' := 1),
    BitVec.setWidth_append_eq_shiftLeft_setWidth_or (w' := 3),
    BitVec.setWidth_append_eq_shiftLeft_setWidth_or (w' := 5), BitVec.shiftLeft_or_distrib,
    ← BitVec.shiftLeft_add, Nat.reduceAdd, setWidth_ofFin, BitVec.setWidth_zero, BitVec.or_zero]

end Sys2Proof

open Sys2Proof

/-- Settles O2: extraction is division and remainder, an assembled word gives its fields back, and the
fields of a word join to its bits 31:5. -/
theorem commandFieldsRoundTrip : Obligations.CommandFieldsRoundTrip := by
  refine ⟨fun w => ?extraction, fun opc c => ⟨opcField_assemble opc c, Cmd.ofWord_assemble opc c⟩,
    Cmd.assemble_ofWord⟩
  have field := toNat_extractLsb'_eq_div_mod w
  exact ⟨field 27 5, field 24 3, field 19 5, rfl, field 13 5, field 8 5, rfl, rfl, rfl⟩

/-- Settles O3: the shifts from widened appends, injectivity from decoding, and the example by
evaluation. -/
theorem assembleIsShiftsAndOrs : Obligations.AssembleIsShiftsAndOrs :=
  ⟨Cmd.assemble_eq_shifts, fun _ _ _ _ => Cmd.assemble_inj, by decide⟩

end

section
/-! PROOFS. PUSH (R74) as one update of the state with room and one without, and the obligation on
it. -/

namespace Sys2Proof.Machine

theorem not_room_iff {s : State} : s.room = false ↔ s.cfg.fifoDepth ≤ s.fifo.length := by
  rw [← Bool.not_eq_true, room_iff, Nat.not_lt]

theorem exec_push_room {s : State} (w : Word) (h : s.room = true) :
    exec (.push w) s = .next { s with fifo := s.fifo ++ [fifoEntry w] } :=
  congrArg Host.Outcome.next (pushWord_room w h)

theorem exec_push_full {s : State} (w : Word) (h : s.room = false) :
    exec (.push w) s = .next (s.raise .fifoOvf) :=
  congrArg Host.Outcome.next (pushWord_full w h)

end Sys2Proof.Machine

open Sys2Proof Sys2Proof.Machine

/-- Settles O25: the encoding by evaluation, the two outcomes by whether the FIFO has room. -/
theorem pushAppendsOrOverflows : Obligations.PushAppendsOrOverflows :=
  ⟨fun _ => rfl, fun _ w =>
    ⟨fun hroom => exec_push_room w (room_iff.mpr hroom),
      fun hfull => exec_push_full w (not_room_iff.mpr hfull)⟩⟩

end

section
/-! PROOFS. A bus pattern as an access of a register offset (R69), the offsets that answer no read or
no write (R90), and the obligations on the interrupt registers' writes and on unanswered
accesses. -/

namespace Sys2Proof

/-! ## A bus pattern is a read or a write of a register offset -/

theorem busOffset_toNat (p : BitVec 13) : (p.extractLsb' 0 12).toNat = p.toNat % 0x1000 :=
  BitVec.extractLsb'_toNat 0 12 p

theorem writeBit_eq (p : BitVec 13) : p.getLsbD 12 = decide (0x1000 ≤ p.toNat) :=
  BitVec.msb_eq_decide p

/-- Below 0x1000 a pattern has its write bit clear and is its own offset. -/
theorem decode_bus_read {p : BitVec 13} (d : Word) (hspace : p.toNat < 0x200)
    (halign : p.toNat % 4 = 0) : decode (.host (.bus p d)) = decodeRead p.toNat := by
  have hoff : p.toNat % 0x1000 = p.toNat := Nat.mod_eq_of_lt (by omega)
  have hread : ¬ 0x1000 ≤ p.toNat := by omega
  simp only [decode, decodeHost, busOffset_toNat, writeBit_eq, hoff, halign, hread,
    Nat.not_le.mpr hspace, decide_false, ne_eq, not_true, if_false, Bool.false_eq_true]

/-- From 0x1000 on a pattern has its write bit set and its offset above that. -/
theorem decode_bus_write {p : BitVec 13} {off : Nat} (d : Word) (hp : p.toNat = 0x1000 + off)
    (hspace : off < 0x200) (halign : off % 4 = 0) :
    decode (.host (.bus p d)) = decodeWrite off d := by
  have hoff : p.toNat % 0x1000 = off := by omega
  have hwrite : 0x1000 ≤ p.toNat := by omega
  simp only [decode, decodeHost, busOffset_toNat, writeBit_eq, hoff, halign, hwrite,
    Nat.not_le.mpr hspace, decide_true, ne_eq, not_true, if_false, if_true]

/-! ## The offsets that answer no access -/

/-- The write-only registers of R25: CMD_FIFO, LEN_REQ, LEN_RESET, REG_ALLOC, REG_BIND, REG_FREE and
SUBMIT. -/
def writeOnlyOffsets : List Nat := [0x000, 0x018, 0x020, 0x024, 0x028, 0x02C, 0x03C]

/-- The read-only registers of R25 below the table views: STATUS, FAULT_LOG, TOP_PEND, LEN_RSP,
REG_RSP, WAIT_ROOM and WAIT_IDLE. -/
def readOnlyOffsets : List Nat := [0x004, 0x010, 0x014, 0x01C, 0x030, 0x034, 0x038]

theorem decodeRead_writeOnly : ∀ off ∈ writeOnlyOffsets,
    off < 0x200 ∧ off % 4 = 0 ∧ decodeRead off = .error .readsAsZero := by decide

theorem decodeWrite_readOnly (d : Word) : ∀ off ∈ readOnlyOffsets,
    off < 0x200 ∧ off % 4 = 0 ∧ decodeWrite off d = .error .writeIgnored := by
  simp [readOnlyOffsets, decodeWrite]

/-- Above the last table view no offset answers a read. -/
theorem decodeRead_unmapped {off : Nat} (h : 0x180 ≤ off) :
    decodeRead off = .error .readsAsZero := by
  unfold decodeRead
  split
  case h_10 =>
    rw [if_neg (by omega), if_neg (by omega), if_neg (by omega), if_neg (by omega)]
  all_goals omega

/-- From the first table view on no offset answers a write. -/
theorem decodeWrite_views_or_unmapped {off : Nat} (d : Word) (h : 0x040 ≤ off) :
    decodeWrite off d = .error .writeIgnored := by
  unfold decodeWrite
  split
  case h_10 => rfl
  all_goals omega

end Sys2Proof

namespace Sys2Proof.Machine

/-! ## The HOST's turn on such an access -/

/-- The HOST's scheduled turn in no wait issues the next access of its program. -/
theorem step_host_issue {s : State} {t : Turn} {rest : List Turn} {a : HostAccess}
    {more : List HostAccess} (hsched : s.sched = t :: rest) (hact : t.act = .host)
    (hwait : s.hwait = .none) (hprog : s.program = a :: more) :
    step s = issue a { s with sched := rest, sibPend := t.sib, program := more } := by
  simp [step, scheduledStep, takeTurn, hostTurn, hsched, hact, hwait, hprog]

/-- An access in coded form that is no instruction is answered as R90 says or refused. -/
theorem issue_coded_error {op : HostOp} {e : DecodeError} (s : State)
    (h : decode (.host op) = .error e) : issue (.coded op) s = otherAccess e s := by
  simp only [issue, routeAccess, h]

/-! ## The writes of the interrupt registers -/

theorem exec_wrIntStat (v : BitVec 6) (s : State) :
    exec (.wrIntStat v) s = .next { s with intStat := s.intStat &&& ~~~v } := rfl

theorem exec_wrIntMask (v : BitVec 6) (s : State) :
    exec (.wrIntMask v) s = .next { s with intMask := v } := rfl

/-- A latch survives a write of `d` exactly where `d` has a 0. -/
theorem getLsbD_and_not_extract (x : BitVec 6) (d : Word) {k : Nat} (hk : k < 6) :
    (x &&& ~~~d.extractLsb' 0 6).getLsbD k = (x.getLsbD k && !d.getLsbD k) := by
  simp [hk]

end Sys2Proof.Machine

open Sys2Proof Sys2Proof.Machine

/-- Settles O34: both patterns are writes of their register's offset, and the latches are compared
bit by bit. -/
theorem interruptRegisterWrites : Obligations.InterruptRegisterWrites := by
  intro s d
  refine ⟨?stat, ?mask, ⟨_, exec_wrIntStat _ s, fun k => getLsbD_and_not_extract s.intStat d⟩,
    exec_wrIntMask _ s⟩
  case stat => exact decode_bus_write (off := 0x008) d rfl (by decide) (by decide)
  case mask => exact decode_bus_write (off := 0x00C) d rfl (by decide) (by decide)

/-- Settles O35: the pattern is an access of an offset in the space, the decoder answers none there,
and the HOST's turn then gives R90's answer. -/
theorem unansweredAccesses : Obligations.UnansweredAccesses := by
  intro s t rest more p d hsched hact hwait hprog
  have hstep {e : DecodeError} (h : decode (.host (.bus p d)) = .error e) :=
    (step_host_issue hsched hact hwait hprog).trans (issue_coded_error _ h)
  refine ⟨fun h => hstep (e := .readsAsZero) ?read, fun h => hstep (e := .writeIgnored) ?write⟩
  case read =>
    obtain hreg | ⟨halign, hlow, hhigh⟩ := h
    · obtain ⟨hspace, halign, hnone⟩ := decodeRead_writeOnly _ hreg
      rw [decode_bus_read d hspace halign, hnone]
    · rw [decode_bus_read d (by omega) halign, decodeRead_unmapped hlow]
  case write =>
    obtain hreg | ⟨halign, hlow, hhigh⟩ := h
    · obtain ⟨off, hoff, hp⟩ :=
        List.mem_map (f := (0x1000 + ·)) (l := readOnlyOffsets).mp hreg
      obtain ⟨hspace, halign, hnone⟩ := decodeWrite_readOnly d off hoff
      rw [decode_bus_write d hp.symm hspace halign, hnone]
    · obtain ⟨off, hp⟩ := Nat.exists_eq_add_of_le (show 0x1000 ≤ p.toNat by omega)
      rw [decode_bus_write d hp (by omega) (by omega), decodeWrite_views_or_unmapped d (by omega)]

end

section
/-! PROOFS. What a length request computes and answers (R92 to R100), what LEN_RESET does (R102), and
the obligations on the classes and adjusted lengths, on a request's failures and on the reset. -/

namespace Sys2Proof.Machine

/-! ## The class and the lengths of a request -/

/-- Outside the table of R61 an opcode id has no class. -/
theorem classOf_eq_none {opc : BitVec 5}
    (h : opc.toNat = 0 ∨ (0x0D ≤ opc.toNat ∧ opc.toNat ≠ 0x1F)) : classOf opc = none := by
  unfold classOf
  split
  case h_14 => rfl
  all_goals omega

theorem roundUp64_lt (x : Nat) : roundUp64 x < x + 64 := by
  unfold roundUp64; omega

/-- With `lenPair_bounds` this makes the full length the least multiple of 64 that holds the width. -/
theorem lenFull_lt (cls : LenClass) (b : Nat) : lenFull cls b < lenBits cls b + 64 := by
  cases cls with
  | longdiv => exact Nat.lt_add_of_pos_right (by decide)
  | addc | modmul | modinv | floor => exact roundUp64_lt _

/-- LONGDIV at the greatest request width bounds every class (R95). -/
theorem lenBits_le (cls : LenClass) {b : Nat} (hb : b ≤ 1048575) : lenBits cls b ≤ 2097152 := by
  cases cls with
  | longdiv => simp only [lenBits, roundUp64]; omega
  | addc | modmul | modinv | floor => simp only [lenBits]; omega

/-! ## The operations of the HOST -/

/-- LONGDIV and a LEN_REQ of an assigned id run one and the same search (R96, R136). -/
theorem exec_lenRequest {i : Instr} {cls : LenClass} {b : Nat} (s : State)
    (h : lenRequestOf i = some (cls, b)) : exec i s = .next (s.requestSlot cls b) := by
  unfold lenRequestOf at h
  split at h
  case h_1 w => cases h; rfl
  case h_2 opc w =>
    split at h
    next hcls => cases h; simp only [exec, execLenReq, hcls]
    next => cases h
  case h_3 => cases h

theorem exec_lenReq_badOpcode {opc : BitVec 5} (w : BitVec 20) (s : State)
    (h : classOf opc = none) :
    exec (.lenReq opc w) s = .next { s with lenRsp := lenAnswer 2#2 0#3 0 } := by
  simp only [exec, execLenReq, h]

theorem requestSlot_exhausted {s : State} {cls : LenClass} {b : Nat}
    (hmatch : s.matchingSlot (lenBits cls b) (lenFull cls b) = none) (hfree : s.freeSlot = none) :
    s.requestSlot cls b = { s with lenRsp := lenAnswer 1#2 0#3 0 } := by
  simp only [State.requestSlot, hmatch, hfree]

theorem exec_lenReset_idle {s : State} (h : s.isIdle = true) :
    exec .lenReset s = .next { s with lenTab := Vector.replicate 8 ⟨false, 0#22, 0#22⟩ } :=
  if_pos h

theorem exec_lenReset_busy {s : State} (h : s.isIdle = false) :
    exec .lenReset s = .fault .slotResetWhileBusy :=
  if_neg (Bool.not_eq_true _ ▸ h)

end Sys2Proof.Machine

open Sys2Proof Sys2Proof.Machine

/-- Settles O45: the classes by evaluation, the lengths from the bounds on the width and on the
rounding. -/
theorem adjustedLengths : Obligations.AdjustedLengths := by
  refine ⟨rfl, by decide, by decide, rfl, rfl, fun _ => classOf_eq_none, ?lengths⟩
  intro cls b hb
  obtain ⟨-, -, hmod, hmin, hle⟩ := lenPair_bounds cls (Nat.lt_succ_of_le hb)
  have hlt := lenFull_lt cls b
  have hbits := lenBits_le cls hb
  have hmax : lenFull cls b ≤ 2097152 := by omega
  exact ⟨rfl, rfl, rfl, rfl, rfl, rfl, hmod, hle, hlt, hmin, hmax, by omega, by omega, by omega⟩

/-- Settles O44: with all slots occupied and none matching both searches answer none; an id without
a class makes no search. -/
theorem lenRequestFailures : Obligations.LenRequestFailures := by
  intro s
  refine ⟨fun i cls b hi hslots => ?exhausted, fun opc w hopc => ?badOpcode⟩
  case exhausted =>
    have hmatch : s.matchingSlot (lenBits cls b) (lenFull cls b) = none :=
      matchingSlot_none.mpr fun j _ => (hslots j).2
    have hfree : s.freeSlot = none := freeSlot_none.mpr fun j => (hslots j).1
    rw [exec_lenRequest s hi, requestSlot_exhausted hmatch hfree]
    rfl
  case badOpcode => exact exec_lenReq_badOpcode w s (classOf_eq_none hopc)

/-- Settles O46: the pattern is a write of LEN_RESET's offset, and idleness decides the two
outcomes. -/
theorem lenResetFreesEverySlot : Obligations.LenResetFreesEverySlot := by
  refine ⟨fun d => ?encoding, fun s => ⟨fun hfifo hbusy => ?idle, fun hbusy => ?busy⟩⟩
  case encoding => exact decode_bus_write (off := 0x020) d rfl (by decide) (by decide)
  case idle =>
    refine ⟨_, exec_lenReset_idle (isIdle_iff.mpr ⟨hfifo, hbusy⟩), fun k => ?_⟩
    rw [Vector.get_eq_getElem, Vector.getElem_replicate]
  case busy => exact exec_lenReset_busy (not_isIdle_iff.mpr hbusy)

end

section
/-! PROOFS. The three outcomes of REG_FREE (R109, R110, R116), and the obligation on them. -/

namespace Sys2Proof.Machine

/-- A free id is answered before idleness is asked for (R110). -/
theorem exec_regFree_free {s : State} {i : RegId} (hocc : (s.reg i).occ = false) :
    exec (.regFree i) s = .next { s with regRsp := regOk i } :=
  if_pos hocc

theorem exec_regFree_occupied {s : State} {i : RegId} (hocc : (s.reg i).occ = true) :
    exec (.regFree i) s =
      if s.isIdle then .next (s.unbindReg i) else .fault .sramAccessWhileBusy :=
  if_neg (Bool.not_eq_false _ ▸ hocc)

/-- What `unbindReg` makes of a state, with the answer as a number and the region taken out of the
live set. -/
theorem State.unbindReg_eq (i : RegId) (s : State) :
    s.unbindReg i = { s with
      mem    := s.mem.write (s.reg i).addr.toNat (s.reg i).size.toNat 0
      live   := s.live.filter (fun r => r.1 ≠ (s.reg i).addr.toNat)
      regTab := s.regTab.set i.val ⟨false, 0#32, 0#32⟩ i.isLt
      regRsp := BitVec.ofNat 32 i.val } := by
  rw [← regOk_eq]
  rfl

end Sys2Proof.Machine

open Sys2Proof Sys2Proof.Machine

/-- Settles O50: occupancy decides first, idleness only for an occupied id, and the OK answer is the
id's number. -/
theorem regFreeZeroesAndReleases : Obligations.RegFreeZeroesAndReleases := by
  intro s i
  refine ⟨fun hocc hidle => ?idle, fun hfree => ?free, fun hocc hbusy => ?busy⟩
  case idle => rw [exec_regFree_occupied hocc, if_pos hidle, State.unbindReg_eq]
  case free => rw [exec_regFree_free hfree, regOk_eq]
  case busy => rw [exec_regFree_occupied hocc, hbusy]; rfl

end

section
/-! PROOFS. A command word read by its match and mask (R57, R61), what CMP answers when it is ready
(R126), and the obligation on both. -/

namespace Sys2Proof

/-- The mask of the command rows keeps the opcode id, and nothing else. -/
theorem opcField_of_mask {w : Word} {opc : BitVec 5} (h : w &&& 0xF8000000#32 = opc ++ 0#27) :
    opcField w = opc := by
  have hmask : (0xF8000000#32).extractLsb' 27 5 = BitVec.allOnes 5 := by decide
  calc opcField w
      = (w &&& 0xF8000000#32).extractLsb' 27 5 := by
        rw [BitVec.extractLsb'_and, hmask, BitVec.and_allOnes, opcField]
    _ = opc := by rw [h, BitVec.extractLsb'_append_eq_left]

/-- The converse of `decodeCommand_some`, through the decoder. -/
theorem decode_command {w : Word} {op : Opcode} (h : opcField w = op.id) :
    decode (.command w) = .ok (op.instr (Cmd.ofWord w)) := by
  simp only [decode, decodeCommand, h]
  cases op <;> rfl

end Sys2Proof

namespace Sys2Proof.Machine

@[simp] theorem writesResult_cmp (c : Cmd) : writesResult .cmp c = false := Bool.and_false _

theorem exec_cmp {s : State} {c : Cmd} (h : s.ready .cmp c) :
    exec (.cmp c) s = .next { s with
      carry   := subBorrow (s.valA c) (s.valB c)
      zero    := decide (s.valA c = s.valB c)
      busy    := false
      intStat := s.intStatDone c } := by
  have hplain := exec_plain h rfl rfl
  rwa [writesResult_cmp] at hplain

end Sys2Proof.Machine

open Sys2Proof Sys2Proof.Machine

/-- Settles O14: the match under the mask is the opcode id 0x03, and CMP is the plain command whose
result is never written. -/
theorem cmpRetires : Obligations.CmpRetires := by
  refine ⟨fun w hw => ?decodes, rfl, fun _ _ => exec_cmp⟩
  have hmatch : 0x18000000#32 = Opcode.cmp.id ++ 0#27 := by decide
  exact decode_command (opcField_of_mask (hw.trans hmatch))

end

section
/-! PROOFS. The tables and the interrupt line after reset (R164), the low bit of TOP_PEND (R30), and
the obligation on the reset state. -/

namespace Sys2Proof.Machine

@[simp] theorem State.slot_resetWith (p : Config.Params) (m : Memory) (k : SlotId) :
    (State.resetWith p m).slot k = ⟨false, 0#22, 0#22⟩ :=
  Vector.getElem_replicate k.isLt

@[simp] theorem State.reg_resetWith (p : Config.Params) (m : Memory) (r : RegId) :
    (State.resetWith p m).reg r = ⟨false, 0#32, 0#32⟩ :=
  Vector.getElem_replicate r.isLt

@[simp] theorem State.irqAlu_resetWith (p : Config.Params) (m : Memory) :
    (State.resetWith p m).irqAlu = false :=
  decide_eq_false (not_not.mpr BitVec.zero_and)

/-- Bit 0 of TOP_PEND is the block's interrupt line. -/
theorem State.topPend_getLsbD_zero (s : State) : s.topPend.getLsbD 0 = s.irqAlu := by
  rw [State.topPend, BitVec.getLsbD_append]
  simp

end Sys2Proof.Machine

open Sys2Proof Sys2Proof.Machine

/-- Settles O54: the plain fields are R164's own, the tables are filled with free entries, no cause
is pending on the interrupt line, and STATUS has O32's reset value. -/
theorem resetIsIdleEmptyAndMasked : Obligations.ResetIsIdleEmptyAndMasked := by
  rintro p m _ rfl
  have hslots := State.slot_resetWith p m
  have hregs := State.reg_resetWith p m
  have hline : (State.resetWith p m).topPend.getLsbD 0 = false := by
    rw [State.topPend_getLsbD_zero, State.irqAlu_resetWith]
  have hstatus := statusFields.2 p m
  exact ⟨rfl, rfl, hslots, hregs, rfl, rfl, rfl, rfl, rfl, rfl, rfl, rfl, rfl, rfl, rfl, rfl, rfl,
    hline, hstatus⟩

end

section
/-! PROOFS. Encoding and decoding again, family by family (R59, R69, R70): command words, register
accesses and their data words, arena accesses; the obligations on the round trip and on the words
written out. -/

namespace Sys2Proof

/-! ## Command words -/

theorem decode_assemble (op : Opcode) (c : Cmd) :
    decode (.command (c.assemble op.id)) = .ok (op.instr c) := by
  rw [decode_command (opcField_assemble op.id c), Cmd.ofWord_assemble]

/-! ## Register accesses -/

/-- An append counts its upper part by the weight of its lowest bit. -/
theorem toNat_append_eq_add {n m : Nat} (x : BitVec n) (y : BitVec m) :
    (x ++ y).toNat = 2 ^ m * x.toNat + y.toNat := by
  rw [BitVec.toNat_append, Nat.shiftLeft_eq, Nat.mul_comm, Nat.two_pow_add_eq_or_of_lt y.isLt]

/-- A register offset fills the low twelve bits of its pattern. -/
theorem busPattern_toNat (write : BitVec 1) {off : Nat} (h : off < 0x200) :
    (write ++ BitVec.ofNat 12 off).toNat = 0x1000 * write.toNat + off := by
  have hoff : (BitVec.ofNat 12 off).toNat = off := Nat.mod_eq_of_lt (by omega)
  rw [toNat_append_eq_add, hoff]
  rfl

theorem decode_busRead {off : Nat} (hspace : off < 0x200) (halign : off % 4 = 0) :
    decode (busRead off) = decodeRead off := by
  have hp : (0#1 ++ BitVec.ofNat 12 off).toNat = off := by
    rw [busPattern_toNat 0#1 hspace]; simp
  have hread := decode_bus_read (p := 0#1 ++ BitVec.ofNat 12 off) 0#32
  rw [hp] at hread
  exact hread hspace halign

theorem decode_busWrite {off : Nat} (d : Word) (hspace : off < 0x200) (halign : off % 4 = 0) :
    decode (busWrite off d) = decodeWrite off d :=
  decode_bus_write d (busPattern_toNat 1#1 hspace) hspace halign

theorem decodeRead_lenBits : ∀ k : SlotId, decodeRead (0x040 + 4 * k.val) = .ok (.rdLenBits k) := by
  decide

theorem decodeRead_lenFull : ∀ k : SlotId, decodeRead (0x060 + 4 * k.val) = .ok (.rdLenFull k) := by
  decide

theorem decodeRead_regAddr : ∀ r : RegId, decodeRead (0x080 + 4 * r.val) = .ok (.rdRegAddr r) := by
  decide

theorem decodeRead_regSize : ∀ r : RegId, decodeRead (0x100 + 4 * r.val) = .ok (.rdRegSize r) := by
  decide

/-! ## Data words -/

theorem decodeLenReq_data (opc : BitVec 5) (w : BitVec 20) :
    decodeLenReq (lenReqData opc w) = if opc = 0x1F#5 then .longdiv w else .lenReq opc w := by
  have hopc : opcField (lenReqData opc w) = opc := by
    simp [opcField, lenReqData, BitVec.extractLsb'_append_eq_of_le (w := 20),
      BitVec.extractLsb'_append_eq_of_le (w := 7)]
  have hwidth : (lenReqData opc w).extractLsb' 0 20 = w := BitVec.extractLsb'_append_eq_right
  rw [decodeLenReq, hopc, hwidth]

/-- REG_BIND's data word holds the id above the slot. -/
theorem bindData_id (i : BitVec 5) (k : BitVec 3) :
    (0#19 ++ i ++ 0#5 ++ k : Word).extractLsb' 8 5 = i := by
  rw [BitVec.extractLsb'_append_eq_of_le (w := 3) (by decide),
    BitVec.extractLsb'_append_eq_of_le (w := 5) (by decide)]
  exact BitVec.extractLsb'_append_eq_right (w := 19)

/-! ## Arena accesses -/

theorem decode_sram (write : Bool) {a : Word} (d : Word) (halign : a.toNat % 4 = 0) :
    decode (.host (.sram (BitVec.ofBool write ++ a) d)) =
      .ok (if write then .sramWr32 a d else .sramRd32 a) := by
  have hoff : (BitVec.ofBool write ++ a).extractLsb' 0 32 = a := BitVec.extractLsb'_append_eq_right
  have hbit : (BitVec.ofBool write ++ a).getLsbD 32 = write := by
    rw [BitVec.getLsbD_append]; cases write <;> rfl
  simp only [decode, decodeHost, hoff, hbit, halign, ne_eq, not_true, if_false]
  cases write <;> rfl

end Sys2Proof

open Sys2Proof

/-- Settles O1: a command word gives its opcode and fields back; a register access reaches its
register, a table view its index, and each data word gives its fields back. -/
theorem decodeOfEncodeIsIdentity : Obligations.DecodeOfEncodeIsIdentity := by
  intro i hwf
  cases i with
  | add c => exact decode_assemble .add c
  | sub c => exact decode_assemble .sub c
  | cmp c => exact decode_assemble .cmp c
  | shift c => exact decode_assemble .shift c
  | logic c => exact decode_assemble .logic c
  | div c => exact decode_assemble .div c
  | reduce c => exact decode_assemble .reduce c
  | modadd c => exact decode_assemble .modadd c
  | modsub c => exact decode_assemble .modsub c
  | modmul c => exact decode_assemble .modmul c
  | modexp c => exact decode_assemble .modexp c
  | modinv c => exact decode_assemble .modinv c
  | longdiv w =>
    refine (decode_busWrite _ (by decide) (by decide)).trans (congrArg Except.ok ?_)
    exact decodeLenReq_data 0x1F#5 w
  | lenReq o w =>
    refine (decode_busWrite _ (by decide) (by decide)).trans (congrArg Except.ok ?_)
    rw [decodeLenReq_data, if_neg (bne_iff_ne.mp hwf)]
  | rdStatus | rdIntStat | rdIntMask | rdFaultLog | rdTopPend | rdLenRsp | rdRegRsp | waitRoom
  | waitIdle => exact decode_busRead (by decide) (by decide)
  | rdLenBits k =>
    exact (decode_busRead (by omega) (by omega)).trans (decodeRead_lenBits k)
  | rdLenFull k =>
    exact (decode_busRead (by omega) (by omega)).trans (decodeRead_lenFull k)
  | rdRegAddr r =>
    exact (decode_busRead (by omega) (by omega)).trans (decodeRead_regAddr r)
  | rdRegSize r =>
    exact (decode_busRead (by omega) (by omega)).trans (decodeRead_regSize r)
  | push | lenReset | submit => exact decode_busWrite _ (by decide) (by decide)
  | wrIntStat v | wrIntMask v =>
    refine (decode_busWrite _ (by decide) (by decide)).trans ?_
    rw [decodeWrite, BitVec.extractLsb'_append_eq_right]
  | regAlloc | regFree =>
    refine (decode_busWrite _ (by decide) (by decide)).trans ?_
    rw [decodeWrite, BitVec.extractLsb'_append_eq_right]
  | regBind i k =>
    refine (decode_busWrite _ (by decide) (by decide)).trans ?_
    rw [decodeWrite, bindData_id, BitVec.extractLsb'_append_eq_right]
  | sramRd32 a => exact decode_sram false 0#32 (beq_iff_eq.mp hwf)
  | sramWr32 a v => exact decode_sram true v (beq_iff_eq.mp hwf)

/-- Settles O4: every word is a literal, so the decoder is evaluated. -/
theorem writtenOutWordsDecode : Obligations.WrittenOutWordsDecode := by
  unfold Obligations.WrittenOutWordsDecode
  decide

end

section
/-! PROOFS. A step does the same whatever the flags and the last read word are (R24, R138), scheduled
or not, and the obligation on it. -/

namespace Sys2Proof.Machine

variable (s : State) (c z : Bool) (v : Word)

/-- Which agent is enabled, and whether the run has ended, does not depend on the flags. -/
theorem unscheduledStep_withFlags :
    SameButFlags (unscheduledStep s) (unscheduledStep (s.withFlags c z v)) :=
  .ite (p := s.hostEnabled = true) (takeTurn_withFlags s c z v .host) <|
  .ite (p := s.engineEnabled = true) (takeTurn_withFlags s c z v .engine) <|
  .ite (p := s.demuxEnabled = true) (takeTurn_withFlags s c z v (.demux none)) <|
  .ite (p := s.ended = true) (.refused _) (.fault _)

theorem step_withFlags : SameButFlags (step s) (step (s.withFlags c z v)) := by
  unfold step
  rw [show (s.withFlags c z v).sched = s.sched from rfl]
  cases s.sched with
  | nil => exact unscheduledStep_withFlags s c z v
  | cons t rest =>
    exact takeTurn_withFlags { s with sched := rest, sibPend := t.sib } c z v t.act

end Sys2Proof.Machine

open Sys2Proof Sys2Proof.Machine

/-- Settles O11: the two steps have outcomes of one kind, read off for each kind. -/
theorem flagsAreSeenOnlyThroughReads : Obligations.FlagsAreSeenOnlyThroughReads := by
  intro s c z v
  have hsame := step_withFlags s c z v
  refine ⟨fun s' h => ?next, fun f h => ?fault, fun r h => ?refused⟩
  all_goals
    rw [h] at hsame
    generalize hother : step (s.withFlags c z v) = other at hsame
    cases hsame
  case next c' z' v' => exact ⟨c', z', v', hother⟩
  case fault => exact hother
  case refused => exact hother

end

section
/-! PROOFS. What an operation of the HOST changes, group of fields by group of fields: the length
slots, the registers with the live set and the arena, the FIFO, the latches with the log, the mask
with the wait; and the obligation on the frame of the HOST's operations. -/

namespace Sys2Proof

/-- The operations that write the register allocator's answer. -/
def Instr.isRegOp : Instr → Bool
  | .regAlloc _ | .regBind _ _ | .regFree _ => true
  | _ => false

theorem Instr.isRegOp_cases {i : Instr} (h : i.isRegOp = true) :
    (∃ k, i = .regAlloc k) ∨ (∃ r k, i = .regBind r k) ∨ ∃ r, i = .regFree r := by
  unfold Instr.isRegOp at h
  split at h
  · exact .inl ⟨_, rfl⟩
  · exact .inr (.inl ⟨_, _, rfl⟩)
  · exact .inr (.inr ⟨_, rfl⟩)
  · cases h

end Sys2Proof

namespace Sys2Proof.Machine

open Sys2Proof.Config

/-! ## The frames of the operations that have more than one outcome -/

theorem pushWord_frame (w : Word) (s : State) :
    s.pushWord w = { s with
      fifo     := (s.pushWord w).fifo
      intStat  := (s.pushWord w).intStat
      faultLog := (s.pushWord w).faultLog } := by
  unfold State.pushWord
  split <;> rfl

theorem startRoom_frame (held : Option Word) (s : State) :
    s.startRoom held = { s with
      fifo     := (s.startRoom held).fifo
      intMask  := (s.startRoom held).intMask
      hwait    := (s.startRoom held).hwait
      held     := (s.startRoom held).held
      readData := (s.startRoom held).readData } := by
  cases held with
  | none => rw [startRoom_read]; split <;> rfl
  | some w => rw [startRoom_submit]; split <;> rfl

theorem startIdle_frame (s : State) :
    s.startIdle = { s with
      intMask  := s.startIdle.intMask
      hwait    := s.startIdle.hwait
      readData := s.startIdle.readData } := by
  rw [startIdle_eq]
  split <;> rfl

variable {s t : State} {i : Instr}

/-- What no operation of the HOST touches: the ENGINE, the DEMUX, the signals, the flags, and what the
model keeps for itself. -/
theorem HostEffect.frame (h : HostEffect s i t) :
    t.busy = s.busy ∧ t.cur = s.cur ∧ t.carry = s.carry ∧ t.zero = s.zero ∧ t.demux = s.demux ∧
    t.sigFifo = s.sigFifo ∧ t.sigDone = s.sigDone ∧ t.cfg = s.cfg ∧ t.program = s.program ∧
    t.sched = s.sched ∧ t.sibPend = s.sibPend := by
  cases h with
  | push w => rw [pushWord_frame]; simp
  | submit w => rw [startRoom_frame]; simp
  | waitRoom => rw [startRoom_frame]; simp
  | waitIdle => rw [startIdle_frame]; simp
  | _ => exact ⟨rfl, rfl, rfl, rfl, rfl, rfl, rfl, rfl, rfl, rfl, rfl⟩

/-! ## The length slots -/

/-- What an operation of the HOST can do to the length slots and LEN_RSP. -/
inductive LengthEffect (s : State) (i : Instr) (t : State) : Prop
  | same (htab : t.lenTab = s.lenTab) (hrsp : t.lenRsp = s.lenRsp)
  /-- A LEN_REQ is answered and claims no slot. -/
  | answer (status : BitVec 2) (slot : BitVec 3) (words : Nat)
      (hi : lenRequestOf i ≠ none ∨ ∃ o w, i = .lenReq o w) (hstatus : status ≠ 3#2)
      (htab : t.lenTab = s.lenTab) (hrsp : t.lenRsp = lenAnswer status slot words)
  | claim (cls : LenClass) (b : Nat) (k : SlotId) (hi : lenRequestOf i = some (cls, b))
      (hb : b < 2 ^ 20) (hmatch : s.matchingSlot (lenBits cls b) (lenFull cls b) = none)
      (hfree : s.freeSlot = some k)
      (htab : t.lenTab = s.lenTab.set k.val
        ⟨true, BitVec.ofNat 22 (lenBits cls b), BitVec.ofNat 22 (lenFull cls b)⟩ k.isLt)
      (hrsp : t.lenRsp = lenOk k (lenFull cls b))
  | reset (hi : i = .lenReset) (htab : t.lenTab = Vector.replicate 8 ⟨false, 0#22, 0#22⟩)
      (hrsp : t.lenRsp = s.lenRsp)

theorem HostEffect.lengths (h : HostEffect s i t) : LengthEffect s i t := by
  cases h with
  | lenBad o w => exact .answer 2#2 0#3 0 (.inr ⟨o, w, rfl⟩) (by decide) rfl rfl
  | lenReuse i cls b k hi =>
    exact .answer 0#2 _ _ (.inl (by simp [hi])) (by decide) rfl rfl
  | lenExhausted i cls b hi =>
    exact .answer 1#2 0#3 0 (.inl (by simp [hi])) (by decide) rfl rfl
  | lenClaim i cls b k hi hb hmatch hfree => exact .claim cls b k hi hb hmatch hfree rfl rfl
  | lenReset => exact .reset rfl rfl rfl
  | push w => rw [pushWord_frame]; exact .same rfl rfl
  | submit w => rw [startRoom_frame]; exact .same rfl rfl
  | waitRoom => rw [startRoom_frame]; exact .same rfl rfl
  | waitIdle => rw [startIdle_frame]; exact .same rfl rfl
  | _ => exact .same rfl rfl

/-! ## The registers, the live set and the arena -/

/-- What an operation of the HOST can do to REG_TAB, the live set, REG_RSP, the arena and the draw
counter. -/
inductive RegisterEffect (s : State) (i : Instr) (t : State) : Prop
  | same (htab : t.regTab = s.regTab) (hlive : t.live = s.live) (hmem : t.mem = s.mem)
      (hrsp : t.regRsp = s.regRsp) (hdraws : t.draws = s.draws)
  /-- An answer that changes no binding: a failure, or REG_FREE of a free id. -/
  | answer (status : BitVec 3) (id : BitVec 5) (hi : i.isRegOp = true)
      (hstatus : status.toNat ≤ 4) (htab : t.regTab = s.regTab) (hlive : t.live = s.live)
      (hmem : t.mem = s.mem) (hrsp : t.regRsp = regAnswer status id)
  | bind (k : SlotId) (r : RegId) (a : Nat) (hi : i.isRegOp = true)
      (hslot : (s.slot k).occ = true) (hfree : (s.reg r).occ = false)
      (ha : s.sramAlloc (s.slotBytes k) = some a)
      (htab : t.regTab = s.regTab.set r.val
        ⟨true, BitVec.ofNat 32 a, BitVec.ofNat 32 (s.slotBytes k)⟩ r.isLt)
      (hlive : t.live = insertRegion a (s.slotBytes k) s.live)
      (hmem : t.mem = s.mem.write a (s.slotBytes k) 0) (hrsp : t.regRsp = regOk r)
  | unbind (r : RegId) (hi : i.isRegOp = true) (hocc : (s.reg r).occ = true)
      (htab : t.regTab = s.regTab.set r.val ⟨false, 0#32, 0#32⟩ r.isLt)
      (hlive : t.live = removeRegion (s.reg r).addr.toNat s.live)
      (hmem : t.mem = s.mem.write (s.reg r).addr.toNat (s.reg r).size.toNat 0)
      (hrsp : t.regRsp = regOk r)
  | store (a v : Word) (hi : i = .sramWr32 a v) (ha : a.toNat + 4 ≤ s.cfg.sramSize)
      (htab : t.regTab = s.regTab) (hlive : t.live = s.live)
      (hmem : t.mem = s.mem.write a.toNat 4 v.toNat) (hrsp : t.regRsp = s.regRsp)
      (hdraws : t.draws = s.draws)

theorem HostEffect.registers (h : HostEffect s i t) : RegisterEffect s i t := by
  cases h with
  | allocFails k r d hr =>
    obtain rfl | rfl | rfl := hr
    · exact .answer 1#3 0#5 rfl (by decide) rfl rfl rfl rfl
    · exact .answer 2#3 0#5 rfl (by decide) rfl rfl rfl rfl
    · exact .answer 3#3 0#5 rfl (by decide) rfl rfl rfl rfl
  | bindFails j k r d hr =>
    obtain rfl | rfl | rfl := hr
    · exact .answer 4#3 0#5 rfl (by decide) rfl rfl rfl rfl
    · exact .answer 3#3 0#5 rfl (by decide) rfl rfl rfl rfl
    · exact .answer 2#3 0#5 rfl (by decide) rfl rfl rfl rfl
  | freeAgain r => exact .answer 0#3 _ rfl (by decide) rfl rfl rfl rfl
  | alloc k r a hslot hfree ha =>
    exact .bind k r a rfl hslot (freeReg_some hfree).2.1 ha rfl rfl rfl rfl
  | bind k r a hslot _ hfree ha => exact .bind k r a rfl hslot hfree ha rfl rfl rfl rfl
  | free r hocc => exact .unbind r rfl hocc rfl rfl rfl rfl
  | store a v _ ha => exact .store a v rfl ha rfl rfl rfl rfl rfl
  | push w => rw [pushWord_frame]; exact .same rfl rfl rfl rfl rfl
  | submit w => rw [startRoom_frame]; exact .same rfl rfl rfl rfl rfl
  | waitRoom => rw [startRoom_frame]; exact .same rfl rfl rfl rfl rfl
  | waitIdle => rw [startIdle_frame]; exact .same rfl rfl rfl rfl rfl
  | _ => exact .same rfl rfl rfl rfl rfl

/-! ## The FIFO, the latches and the log -/

/-- An operation of the HOST leaves the FIFO or appends one word where there is room. -/
theorem HostEffect.fifo (h : HostEffect s i t) :
    t.fifo = s.fifo ∨ ∃ w, (i = .push w ∨ i = .submit w) ∧ s.fifo.length < s.cfg.fifoDepth ∧
      t.fifo = s.fifo ++ [fifoEntry w] := by
  cases h with
  | push w =>
    cases hroom : s.room with
    | true => rw [pushWord_room w hroom]; exact .inr ⟨w, .inl rfl, room_iff.mp hroom, rfl⟩
    | false => rw [pushWord_full w hroom]; exact .inl rfl
  | submit w =>
    rw [startRoom_submit]
    split
    next hroom => exact .inr ⟨w, .inr rfl, room_iff.mp hroom, rfl⟩
    next => exact .inl rfl
  | waitRoom => rw [startRoom_read]; split <;> exact .inl rfl
  | waitIdle => rw [startIdle_frame]; exact .inl rfl
  | _ => exact .inl rfl

/-- An operation of the HOST leaves the latches and the log, or is a PUSH without room, or clears
latches. -/
theorem HostEffect.latches (h : HostEffect s i t) :
    (t.intStat = s.intStat ∧ t.faultLog = s.faultLog) ∨
    (∃ w, i = .push w ∧ s.cfg.fifoDepth ≤ s.fifo.length ∧
      t.intStat = s.intStat ||| 4#6 ∧ t.faultLog = s.faultLog ||| 4#6) ∨
    ∃ v, i = .wrIntStat v ∧ t.intStat = s.intStat &&& ~~~v ∧ t.faultLog = s.faultLog := by
  cases h with
  | push w =>
    cases hroom : s.room with
    | true => rw [pushWord_room w hroom]; exact .inl ⟨rfl, rfl⟩
    | false =>
      rw [pushWord_full w hroom]
      exact .inr (.inl ⟨w, rfl, not_room_iff.mp hroom, rfl, rfl⟩)
  | intStat v => exact .inr (.inr ⟨v, rfl, rfl, rfl⟩)
  | submit w => rw [startRoom_frame]; exact .inl ⟨rfl, rfl⟩
  | waitRoom => rw [startRoom_frame]; exact .inl ⟨rfl, rfl⟩
  | waitIdle => rw [startIdle_frame]; exact .inl ⟨rfl, rfl⟩
  | _ => exact .inl ⟨rfl, rfl⟩

/-! ## The mask and the wait -/

theorem State.ownMask_poll {s : State} (c : Cause) (hp : s.cfg.policy = .poll) :
    s.ownMask c = s.intMask :=
  if_neg (by simp [hp])

/-- What an operation of the HOST can do to the mask, the wait phase and the held word. -/
inductive WaitStart (s : State) (i : Instr) (t : State) : Prop
  | same (hmask : t.intMask = s.intMask) (hwait : t.hwait = s.hwait) (hheld : t.held = s.held)
  | mask (v : BitVec 6) (hi : i = .wrIntMask v) (hmask : t.intMask = v)
      (hwait : t.hwait = s.hwait) (hheld : t.held = s.held)
  /-- A wait that completes at once. -/
  | done (c : Cause) (hi : i = .waitRoom ∨ (∃ w, i = .submit w) ∨ i = .waitIdle)
      (hmask : t.intMask = s.ownMask c) (hwait : t.hwait = .none)
      (hheld : t.held = none ∨ t.held = s.held)
  | room (hi : i = .waitRoom ∨ ∃ w, i = .submit w) (hmask : t.intMask = s.intMask)
      (hwait : t.hwait = .roomCheck)
  | idle (hi : i = .waitIdle) (hmask : t.intMask = s.intMask) (hwait : t.hwait = .idleCheck)
      (hheld : t.held = s.held)

theorem HostEffect.waits (h : HostEffect s i t) : WaitStart s i t := by
  cases h with
  | intMask v => exact .mask v rfl rfl rfl rfl
  | push w => rw [pushWord_frame]; exact .same rfl rfl rfl
  | submit w =>
    rw [startRoom_submit]
    split
    · exact .done .fifoWm (.inr (.inl ⟨w, rfl⟩)) rfl rfl (.inl rfl)
    · exact .room (.inr ⟨w, rfl⟩) rfl rfl
  | waitRoom =>
    rw [startRoom_read]
    split
    · exact .done .fifoWm (.inl rfl) rfl rfl (.inl rfl)
    · exact .room (.inl rfl) rfl rfl
  | waitIdle =>
    rw [startIdle_eq]
    split
    · exact .done .done (.inr (.inr rfl)) rfl rfl (.inr rfl)
    · exact .idle rfl rfl rfl rfl
  | _ => exact .same rfl rfl rfl

end Sys2Proof.Machine

open Sys2Proof Sys2Proof.Machine

/-- Settles O52: an operation that is no command has one of the HOST's effects, and each group of
fields is left alone by the operations outside its own. -/
theorem hostOperationFrame : Obligations.HostOperationFrame := by
  intro i s t hexec hnot
  have hhost : i.isCommand = false := by
    rw [← Bool.not_eq_true, isCommand_iff]
    rintro ⟨op, c, hop⟩
    exact hnot op c hop
  have heffect := host_next hhost hexec
  have hnoRegOp (halloc : ∀ k, i ≠ .regAlloc k) (hbind : ∀ r k, i ≠ .regBind r k)
      (hfree : ∀ r, i ≠ .regFree r) : i.isRegOp ≠ true := by
    intro hi
    obtain ⟨k, hi⟩ | ⟨r, k, hi⟩ | ⟨r, hi⟩ := Instr.isRegOp_cases hi
    · exact halloc k hi
    · exact hbind r k hi
    · exact hfree r hi
  obtain ⟨hbusy, hcur, hcarry, hzero, hdemux, hsigF, hsigD, hcfg, hprog, hsched, hsib⟩ :=
    heffect.frame
  refine ⟨hbusy, hcur, hcarry, hzero, hdemux, hsigF, hsigD, hcfg, hprog, hsched, hsib,
    fun hstore halloc hbind hfree => ?mem, fun halloc hbind hfree => ?regs,
    fun hreq hlen => ?lens, fun hpush => ?latches, fun hpush hsubmit => ?fifo,
    fun hsubmit hroom hidle hmask => ?waits⟩
  case mem =>
    have hno := hnoRegOp halloc hbind hfree
    cases heffect.registers with
    | same _ _ hmem | answer _ _ _ _ _ _ hmem => exact hmem
    | store a v hi => exact absurd hi (hstore a v)
    | bind _ _ _ hi | unbind _ hi => exact absurd hi hno
  case regs =>
    have hno := hnoRegOp halloc hbind hfree
    cases heffect.registers with
    | same htab hlive _ hrsp hdraws | store _ _ _ _ htab hlive _ hrsp hdraws =>
      exact ⟨htab, hlive, hrsp, hdraws⟩
    | answer _ _ hi | bind _ _ _ hi | unbind _ hi => exact absurd hi hno
  case lens =>
    cases heffect.lengths with
    | same htab hrsp => exact ⟨hrsp, fun _ => htab⟩
    | answer _ _ _ hi =>
      obtain hi | ⟨o, w, hi⟩ := hi
      · exact absurd hreq hi
      · exact absurd hi (hlen o w)
    | claim _ _ _ hi => rw [hreq] at hi; cases hi
    | reset hi _ hrsp => exact ⟨hrsp, fun hno => absurd hi hno⟩
  case latches =>
    obtain ⟨hstat, hlog⟩ | ⟨w, hi, -⟩ | ⟨v, hi, -, hlog⟩ := heffect.latches
    · exact ⟨hlog, fun _ => hstat⟩
    · exact absurd hi (hpush w)
    · exact ⟨hlog, fun hno => absurd hi (hno v)⟩
  case fifo =>
    obtain hfifo | ⟨w, hi | hi, -⟩ := heffect.fifo
    · exact hfifo
    · exact absurd hi (hpush w)
    · exact absurd hi (hsubmit w)
  case waits =>
    cases heffect.waits with
    | same hm hw hh => exact ⟨hm, hw, hh⟩
    | mask v hi => exact absurd hi (hmask v)
    | done _ hi =>
      obtain hi | ⟨w, hi⟩ | hi := hi
      · exact absurd hi hroom
      · exact absurd hi (hsubmit w)
      · exact absurd hi hidle
    | room hi =>
      obtain hi | ⟨w, hi⟩ := hi
      · exact absurd hi hroom
      · exact absurd hi (hsubmit w)
    | idle hi => exact absurd hi hidle

end

section
/-! PROOFS. What one step changes: the tables, through an operation of the HOST alone; the FIFO and the
command held; the phase of an open wait; the latches and the log. The obligations that follow from
these. -/

namespace Sys2Proof.Machine

open Sys2Proof.Config

variable {s s' : State}

/-! ## The tables -/

/-- The step runs the operation `i` of the HOST, which its next access encodes. -/
def HostStep (s : State) (i : Instr) (s' : State) : Prop :=
  s.nextAgent = .host ∧ s.hostNext i ∧ ∃ sched sib program,
    HostEffect { s with sched := sched, sibPend := sib, program := program } i s'

/-- RETIRE changes the arena, the draw counter, the flags, `busy`, the latches and the log alone. -/
theorem retire_frame {op : Opcode} {c : Cmd} (h : exec (op.instr c) s = .next s') :
    s' = { s with
      mem := s'.mem, draws := s'.draws, carry := s'.carry, zero := s'.zero, busy := false,
      intStat := s'.intStat, faultLog := s'.faultLog } := by
  obtain ⟨cr, z, m, d, fs, rfl, -⟩ := retire_update h
  rfl

/-- Every other step leaves the tables, the live set and the responses alone. -/
theorem step_hostStep_or_tables (h : step s = .next s') :
    (∃ i, HostStep s i s') ∨
    (s'.lenTab = s.lenTab ∧ s'.regTab = s.regTab ∧ s'.live = s.live ∧ s'.lenRsp = s.lenRsp ∧
      s'.regRsp = s.regRsp ∧ s'.cfg = s.cfg) := by
  obtain ⟨sched, sib, act, hact, hturn⟩ := step_next h
  cases hturn with
  | hostOp i a rest op _ hw hp hr hd _ hx =>
    exact .inl ⟨i, hact, ⟨hw, a, rest, op, hp, hr, hd⟩, sched, sib, rest, hx⟩
  | retire op _ _ _ hx => rw [retire_frame hx]; exact .inr ⟨rfl, rfl, rfl, rfl, rfl, rfl⟩
  | wait _ _ hx => cases hx <;> exact .inr ⟨rfl, rfl, rfl, rfl, rfl, rfl⟩
  | _ => exact .inr ⟨rfl, rfl, rfl, rfl, rfl, rfl⟩

/-- No step changes a parameter (R7). -/
theorem step_cfg (h : step s = .next s') : s'.cfg = s.cfg := by
  obtain ⟨i, -, -, sched, sib, program, hx⟩ | ⟨-, -, -, -, -, hcfg⟩ := step_hostStep_or_tables h
  · obtain ⟨-, -, -, -, -, -, -, hcfg, -⟩ := hx.frame
    exact hcfg
  · exact hcfg

/-! ## The FIFO -/

/-- A step leaves the FIFO and the command held, or pops the head, or appends a word where there is
room. -/
theorem step_fifo (h : step s = .next s') :
    (s'.fifo = s.fifo ∧ s'.cur = s.cur) ∨
    (s.busy = false ∧ s.fifo = s'.cur :: s'.fifo) ∨
    (∃ w, s.fifo.length < s.cfg.fifoDepth ∧ s'.fifo = s.fifo ++ [fifoEntry w] ∧
      s'.cur = s.cur) := by
  obtain ⟨sched, sib, act, -, hturn⟩ := step_next h
  cases hturn with
  | retire op _ _ _ hx => rw [retire_frame hx]; exact .inl ⟨rfl, rfl⟩
  | pop w rest hb hf => exact .inr (.inl ⟨hb, hf⟩)
  | hostOp i _ _ _ _ _ _ _ _ _ hx =>
    obtain ⟨-, hcur, -⟩ := hx.frame
    obtain hfifo | ⟨w, -, hroom, hfifo⟩ := hx.fifo
    · exact .inl ⟨hfifo, hcur⟩
    · exact .inr (.inr ⟨w, hroom, hfifo, hcur⟩)
  | wait _ _ hx =>
    cases hx with
    | submit w _ hr => exact .inr (.inr ⟨w, room_iff.mp hr, rfl, rfl⟩)
    | _ => exact .inl ⟨rfl, rfl⟩
  | _ => exact .inl ⟨rfl, rfl⟩

/-! ## Waits -/

/-- A phase of a wait for room. -/
def HWait.isRoom (w : HWait) : Prop := w = .roomCheck ∨ w = .roomArmed

/-- A phase of a wait for idleness. -/
def HWait.isIdle (w : HWait) : Prop := w = .idleCheck ∨ w = .idleArmed

theorem HWait.not_isRoom_of_isIdle {w : HWait} (h : w.isIdle) : ¬ w.isRoom := by
  obtain rfl | rfl := h <;> simp [HWait.isRoom]

/-- An open wait stays one of its kind, or its condition holds; the program waits with it. -/
theorem step_open_wait (h : step s = .next s') (hopen : s.hwait ≠ .none) :
    s'.program = s.program ∧
    (s.hwait.isRoom → s'.hwait.isRoom ∨ s.fifo.length < s.cfg.fifoDepth) ∧
    (s.hwait.isIdle → s'.hwait.isIdle ∨ (s.fifo = [] ∧ s.busy = false)) := by
  obtain ⟨sched, sib, act, -, hturn⟩ := step_next h
  cases hturn with
  | retire op _ _ _ hx => rw [retire_frame hx]; exact ⟨rfl, .inl, .inl⟩
  | hostOp _ _ _ _ _ hw | hostZero _ _ hw | hostIgnored _ _ hw => exact absurd hw hopen
  | wait _ _ hx =>
    cases hx with
    | room hw hr | submit _ hw hr =>
      exact ⟨rfl, fun _ => .inr (room_iff.mp hr),
        fun hi => absurd (.inl hw) (HWait.not_isRoom_of_isIdle hi)⟩
    | armRoom _ hw =>
      exact ⟨rfl, fun _ => .inl (.inr rfl),
        fun hi => absurd (.inl hw) (HWait.not_isRoom_of_isIdle hi)⟩
    | wakeRoom _ hw =>
      exact ⟨rfl, fun _ => .inl (.inl rfl),
        fun hi => absurd (.inr hw) (HWait.not_isRoom_of_isIdle hi)⟩
    | idle hw hi =>
      exact ⟨rfl, fun hr => absurd hr (HWait.not_isRoom_of_isIdle (.inl hw)),
        fun _ => .inr (isIdle_iff.mp hi)⟩
    | armIdle _ hw =>
      exact ⟨rfl, fun hr => absurd hr (HWait.not_isRoom_of_isIdle (.inl hw)),
        fun _ => .inl (.inr rfl)⟩
    | wakeIdle _ hw =>
      exact ⟨rfl, fun hr => absurd hr (HWait.not_isRoom_of_isIdle (.inr hw)),
        fun _ => .inl (.inl rfl)⟩
  | _ => exact ⟨rfl, .inl, .inl⟩

/-! ## The latches and the log -/

/-- The HOST pushes without room (R86). -/
def State.overflows (s : State) : Prop :=
  s.nextAgent = .host ∧ (∃ w, s.hostNext (.push w)) ∧ s.cfg.fifoDepth ≤ s.fifo.length

/-- The ENGINE pops at the watermark (R118). -/
def PopsAtWatermark (s s' : State) : Prop :=
  s.nextAgent = .engine ∧ s.busy = false ∧ s.fifo.length = s.cfg.fifoWm ∧
    s'.fifo.length + 1 = s.fifo.length

/-- The ENGINE retires a command that asks for DONE (R144). -/
def RetiresWithIrq (s s' : State) : Prop :=
  s.nextAgent = .engine ∧ s.busy = true ∧ s'.busy = false ∧ (Cmd.ofWord s.cur).irq = true

/-- What one step can do to the latches and the log: set fault bits in both and benign bits in the
latches, each for its own reason, or clear latches. -/
inductive LatchEffect (s s' : State) : Prop
  | sets (fs bn : BitVec 6) (hstat : s'.intStat = s.intStat ||| fs ||| bn)
      (hlog : s'.faultLog = s.faultLog ||| fs)
      (hfault : ∀ k, fs.getLsbD k = true → 3 ≤ k ∨ (k = 2 ∧ s.overflows))
      (hbenign : ∀ k, bn.getLsbD k = true →
        (k = 0 ∧ PopsAtWatermark s s') ∨ (k = 1 ∧ RetiresWithIrq s s'))
  | clears (m : BitVec 6) (hstat : s'.intStat = s.intStat &&& ~~~m)
      (hlog : s'.faultLog = s.faultLog)
      (hwhy : s.cfg.policy = .event ∨ (s.nextAgent = .host ∧ s.hostNext (.wrIntStat m)))

theorem Cause.code_of_bit {c : Cause} {k : Nat} (h : c.bit.getLsbD k = true) : k = c.code := by
  rw [Cause.bit, BitVec.getLsbD_twoPow, Bool.and_eq_true, decide_eq_true_eq,
    decide_eq_true_eq] at h
  exact h.2.symm

/-- The fault events of a RETIRE are DIV0, NOINV and MULRED (R141). -/
theorem faultBits_high {op : Opcode} {fs : BitVec 6} (h : faultBits op fs) {k : Nat}
    (hk : fs.getLsbD k = true) : 3 ≤ k := by
  obtain rfl | ⟨-, rfl⟩ | ⟨-, rfl⟩ | ⟨-, rfl⟩ := h
  · simp at hk
  · exact (Cause.code_of_bit (c := .div0) hk).ge
  · exact (show 3 ≤ 4 by decide).trans (Cause.code_of_bit (c := .noInv) hk).ge
  · exact (show 3 ≤ 5 by decide).trans (Cause.code_of_bit (c := .mulRed) hk).ge

theorem LatchEffect.same (hstat : s'.intStat = s.intStat) (hlog : s'.faultLog = s.faultLog) :
    LatchEffect s s' :=
  .sets 0#6 0#6 (by simp [hstat]) (by simp [hlog]) (by simp) (by simp)

theorem step_latches (h : step s = .next s') : LatchEffect s s' := by
  obtain ⟨sched, sib, act, hact, hturn⟩ := step_next h
  cases hturn with
  | retire op _ hb _ hx =>
    obtain ⟨cr, z, m, d, fs, rfl, hfs, -⟩ := retire_update hx
    have hfault : ∀ k, fs.getLsbD k = true → 3 ≤ k ∨ (k = 2 ∧ s.overflows) :=
      fun k hk => .inl (faultBits_high hfs hk)
    by_cases hirq : (Cmd.ofWord s.cur).irq = true
    · exact .sets fs (Cause.bit .done) (if_pos hirq) rfl hfault fun k hk =>
        .inr ⟨Cause.code_of_bit hk, hact, hb, rfl, hirq⟩
    · exact .sets fs 0#6 ((if_neg hirq).trans BitVec.or_zero.symm) rfl hfault (by simp)
  | pop w rest hb hf =>
    by_cases hwm : s.fifo.length = s.cfg.fifoWm
    · have hlen : rest.length + 1 = s.fifo.length := (congrArg List.length hf).symm
      refine .sets 0#6 (Cause.bit .fifoWm) ?_ BitVec.or_zero.symm (by simp) fun k hk =>
        .inl ⟨Cause.code_of_bit hk, hact, hb, hwm, hlen⟩
      rw [BitVec.or_zero]
      exact if_pos hwm
    · exact .same (if_neg hwm) rfl
  | hostOp i a rest op _ hw hp hr hd _ hx =>
    have hnext : s.hostNext i := ⟨hw, a, rest, op, hp, hr, hd⟩
    obtain ⟨hstat, hlog⟩ | ⟨w, rfl, hfull, hstat, hlog⟩ | ⟨v, rfl, hstat, hlog⟩ := hx.latches
    · exact .same hstat hlog
    · exact .sets (Cause.bit .fifoOvf) 0#6 (hstat.trans BitVec.or_zero.symm) hlog
        (fun k hk => .inr ⟨Cause.code_of_bit hk, hact, ⟨w, hnext⟩, hfull⟩) (by simp)
    · exact .clears v hstat hlog (.inr ⟨hact, hnext⟩)
  | wait _ _ hx => cases hx <;> exact .same rfl rfl
  | clear _ c hp => exact .clears c.bit rfl rfl (.inl hp)
  | _ => exact .same rfl rfl

/-- A latch that a step sets was set for a reason of its own. -/
theorem step_sets_latch (h : step s = .next s') {k : Nat} (hclear : s.intStat.getLsbD k = false)
    (hset : s'.intStat.getLsbD k = true) :
    3 ≤ k ∨ (k = 2 ∧ s.overflows) ∨ (k = 0 ∧ PopsAtWatermark s s') ∨
      (k = 1 ∧ RetiresWithIrq s s') := by
  cases step_latches h with
  | sets fs bn hstat _ hfault hbenign =>
    rw [hstat, BitVec.getLsbD_or, BitVec.getLsbD_or, hclear, Bool.false_or, Bool.or_eq_true] at hset
    obtain hbit | hbit := hset
    · exact (hfault k hbit).imp_right .inl
    · exact .inr (.inr (hbenign k hbit))
  | clears m hstat =>
    rw [hstat, BitVec.getLsbD_and, hclear] at hset
    cases hset

theorem step_sets_log (h : step s = .next s') {k : Nat} (hclear : s.faultLog.getLsbD k = false)
    (hset : s'.faultLog.getLsbD k = true) : 3 ≤ k ∨ (k = 2 ∧ s.overflows) := by
  cases step_latches h with
  | sets fs bn _ hlog hfault =>
    rw [hlog, BitVec.getLsbD_or, hclear, Bool.false_or] at hset
    exact hfault k hset
  | clears m _ hlog =>
    rw [hlog, hclear] at hset
    cases hset

end Sys2Proof.Machine

open Sys2Proof Sys2Proof.Machine

/-- Settles O9: the three outcomes of a step for the FIFO. -/
theorem queuedWordsAreNeverChanged : Obligations.QueuedWordsAreNeverChanged := by
  intro s s' h
  obtain ⟨hfifo, -⟩ | ⟨-, hfifo⟩ | ⟨w, -, hfifo, -⟩ := step_fifo h
  · exact .inl hfifo
  · exact .inr (.inl ⟨_, hfifo⟩)
  · exact .inr (.inr ⟨_, hfifo⟩)

/-- Settles O30: no operation of the HOST is run while a wait is open, and the wait's own steps keep it
open until its condition holds. -/
theorem openWaitHoldsTheHost : Obligations.OpenWaitHoldsTheHost := by
  intro s s' h hopen
  obtain ⟨hprog, hroom, hidle⟩ := step_open_wait h hopen
  obtain ⟨i, -, ⟨hclosed, -⟩, -⟩ | ⟨hlen, hreg, hlive, hlrsp, hrrsp, -⟩ := step_hostStep_or_tables h
  · exact absurd hclosed hopen
  refine ⟨fun hnone => ⟨fun hw => ?_, fun hw => ?_⟩, hprog, hlen, hreg, hlive, hlrsp, hrrsp⟩
  · exact (hroom hw).resolve_left (by rw [hnone]; simp [HWait.isRoom])
  · exact (hidle hw).resolve_left (by rw [hnone]; simp [HWait.isIdle])

/-- Settles O31: bit 2 of the latches or the log is set for no reason but the overflow. -/
theorem overflowOnlyFromRawPush : Obligations.OverflowOnlyFromRawPush := by
  rintro s s' h (⟨hclear, hset⟩ | ⟨hclear, hset⟩)
  · obtain hk | ⟨-, hover⟩ := step_sets_log h hclear hset
    · omega
    · exact hover
  · obtain hk | ⟨-, hover⟩ | ⟨hk, -⟩ | ⟨hk, -⟩ := step_sets_latch h hclear hset
    · omega
    · exact hover
    · omega
    · omega

/-- Settles O39: a step ors bits into the log, if it changes it, and ors the same into the latches. -/
theorem faultLogOnlyGrows : Obligations.FaultLogOnlyGrows := by
  intro s s' h k
  cases step_latches h with
  | sets fs bn hstat hlog =>
    rw [hlog, hstat, BitVec.getLsbD_or, BitVec.getLsbD_or, BitVec.getLsbD_or]
    refine ⟨fun hold => by rw [hold, Bool.true_or], fun hclear hset => ?_⟩
    rw [hclear, Bool.false_or] at hset
    rw [hset, Bool.or_true, Bool.true_or]
  | clears m _ hlog =>
    rw [hlog]
    exact ⟨id, fun hclear hset => absurd (hclear.symm.trans hset) Bool.false_ne_true⟩

/-- Settles O40: bit 0 is set for no reason but a POP at the watermark, bit 1 for none but a RETIRE
that asks for it. -/
theorem benignLatchesHaveOneCause : Obligations.BenignLatchesHaveOneCause := by
  intro s s' h
  refine ⟨fun hclear hset => ?wm, fun hclear hset => ?done⟩
  case wm =>
    obtain hk | ⟨hk, -⟩ | ⟨-, hpop⟩ | ⟨hk, -⟩ := step_sets_latch h hclear hset
    · omega
    · omega
    · exact hpop
    · omega
  case done =>
    obtain hk | ⟨hk, -⟩ | ⟨hk, -⟩ | ⟨-, hretire⟩ := step_sets_latch h hclear hset
    · omega
    · omega
    · omega
    · exact hretire

/-- Settles O57: a word keeps its cleared bits from the push to the ENGINE, and a push needs room. -/
theorem fifoStaysBounded : Obligations.FifoStaysBounded := by
  rintro s s' ⟨hlen, hwords, hcur⟩ h
  have hcfg := step_cfg h
  unfold State.fifoOk
  rw [hcfg]
  obtain ⟨hfifo, hcur'⟩ | ⟨-, hfifo⟩ | ⟨w, hroom, hfifo, hcur'⟩ := step_fifo h
  · rw [hfifo, hcur']
    exact ⟨hlen, hwords, hcur⟩
  · rw [hfifo] at hlen hwords
    rw [List.length_cons] at hlen
    exact ⟨by omega, fun w hw => hwords w (List.mem_cons_of_mem _ hw),
      hwords _ List.mem_cons_self⟩
  · have hentry : (fifoEntry w).extractLsb' 0 5 = 0#5 := by
      rw [fifoEntry, and_reservedMask, BitVec.extractLsb'_append_eq_right]
    rw [hfifo, hcur']
    refine ⟨?_, fun x hx => ?_, hcur⟩
    · rw [List.length_append, List.length_singleton]; omega
    · obtain hx | hx := List.mem_append.mp hx
      · exact hwords x hx
      · rw [List.mem_singleton.mp hx, hentry]

end

section
/-! PROOFS. The length slots in every step (R21): the effects of a step on the table, and the
obligations on their consistency and on an occupied slot's pair. -/

namespace Sys2Proof.Machine

open Sys2Proof.Config

variable {s s' t : State}

theorem slot_congr (h : t.lenTab = s.lenTab) (k : SlotId) : t.slot k = s.slot k := by
  unfold State.slot; rw [h]

theorem lenTabOk_congr (h : t.lenTab = s.lenTab) (hok : s.lenTabOk) : t.lenTabOk := by
  simpa only [State.lenTabOk, slot_congr h] using hok

/-- The table of 8 free slots. -/
theorem slot_of_reset (h : t.lenTab = Vector.replicate 8 ⟨false, 0#22, 0#22⟩) (k : SlotId) :
    t.slot k = ⟨false, 0#22, 0#22⟩ := by
  unfold State.slot
  rw [h, Vector.get_eq_getElem, Vector.getElem_replicate]

/-- A step leaves the length slots, frees them all, or claims the free slot of least id for a pair that
no occupied slot holds. -/
theorem step_lenTab (h : step s = .next s') :
    s'.lenTab = s.lenTab ∨ s'.lenTab = Vector.replicate 8 ⟨false, 0#22, 0#22⟩ ∨
    ∃ cls b k, b < 2 ^ 20 ∧ s.matchingSlot (lenBits cls b) (lenFull cls b) = none ∧
      s.freeSlot = some k ∧ s'.lenTab =
        (s.setSlot k ⟨true, BitVec.ofNat 22 (lenBits cls b), BitVec.ofNat 22 (lenFull cls b)⟩).lenTab := by
  obtain ⟨i, -, -, sched, sib, program, hx⟩ | ⟨htab, -⟩ := step_hostStep_or_tables h
  · cases hx.lengths with
    | same htab | answer _ _ _ _ _ htab => exact .inl htab
    | reset _ htab => exact .inr (.inl htab)
    | claim cls b k _ hb hmatch hfree htab =>
      exact .inr (.inr ⟨cls, b, k, hb, hmatch, hfree, htab⟩)
  · exact .inl htab

/-- Claiming a free slot for a pair that no occupied slot holds keeps the table consistent. -/
theorem setSlot_lenTabOk {cls : LenClass} {b : Nat} {k : SlotId} (hok : s.lenTabOk)
    (hb : b < 2 ^ 20) (hmatch : s.matchingSlot (lenBits cls b) (lenFull cls b) = none) :
    (s.setSlot k ⟨true, BitVec.ofNat 22 (lenBits cls b),
      BitVec.ofNat 22 (lenFull cls b)⟩).lenTabOk := by
  obtain ⟨hpair, huniq, hzero⟩ := hok
  obtain ⟨hbits, hfull, hmod, hmin, hle⟩ := lenPair_bounds cls hb
  have hnew := matchingSlot_none.mp hmatch
  have hbitsN : (BitVec.ofNat 22 (lenBits cls b)).toNat = lenBits cls b := Nat.mod_eq_of_lt hbits
  have hfullN : (BitVec.ofNat 22 (lenFull cls b)).toNat = lenFull cls b := Nat.mod_eq_of_lt hfull
  simp only [State.lenTabOk, State.ext_slot_set]
  refine ⟨fun i hi => ?_, fun i j hi hj heb hef => ?_, fun i hi => ?_⟩
  · by_cases hk : k = i
    · rw [if_pos hk, hbitsN, hfullN]
      exact ⟨hmod, hmin, hle⟩
    · rw [if_neg hk] at hi ⊢
      exact hpair i hi
  · by_cases hki : k = i <;> by_cases hkj : k = j
    · exact hki.symm.trans hkj
    · rw [if_neg hkj] at hj heb hef
      rw [if_pos hki] at heb hef
      exact absurd ⟨by rw [← heb, hbitsN], by rw [← hef, hfullN]⟩ (hnew j hj)
    · rw [if_neg hki] at hi heb hef
      rw [if_pos hkj] at heb hef
      exact absurd ⟨by rw [heb, hbitsN], by rw [hef, hfullN]⟩ (hnew i hi)
    · rw [if_neg hki] at hi heb hef
      rw [if_neg hkj] at hj heb hef
      exact huniq i j hi hj heb hef
  · by_cases hk : k = i
    · rw [if_pos hk] at hi; cases hi
    · rw [if_neg hk] at hi ⊢
      exact hzero i hi

theorem lenTabOk_of_reset (h : t.lenTab = Vector.replicate 8 ⟨false, 0#22, 0#22⟩) :
    t.lenTabOk := by
  simp [State.lenTabOk, slot_of_reset h]

end Sys2Proof.Machine

open Sys2Proof Sys2Proof.Machine

/-- Settles O58: the three effects of a step on the table each keep it consistent. -/
theorem lengthSlotsStayConsistent : Obligations.LengthSlotsStayConsistent := by
  intro s s' hok h
  obtain htab | htab | ⟨cls, b, k, hb, hmatch, -, htab⟩ := step_lenTab h
  · exact lenTabOk_congr htab hok
  · exact lenTabOk_of_reset htab
  · exact lenTabOk_congr htab (setSlot_lenTabOk hok hb hmatch)

/-- Settles O47: a claimed slot was free before, a reset leaves no slot occupied, and every other slot
stays as it is. -/
theorem occupiedSlotKeepsItsPair : Obligations.OccupiedSlotKeepsItsPair := by
  intro s s' k h hbefore hafter
  obtain htab | htab | ⟨cls, b, j, -, -, hfree, htab⟩ := step_lenTab h
  · exact slot_congr htab k
  · rw [slot_of_reset htab] at hafter; cases hafter
  · have hjk : j ≠ k := by
      rintro rfl
      exact absurd ((freeSlot_some.mp hfree).1.symm.trans hbefore) Bool.false_ne_true
    rw [slot_congr htab, State.ext_slot_set, if_neg hjk]

end

section
/-! PROOFS. The register bindings and the live set in every step (R23, R46), the arena that follows
from them (R37), and the obligations on both. -/

namespace Sys2Proof.Machine

open Sys2Proof.Config

variable {s s' t : State}

/-! ## Bindings and the live set -/

theorem reg_congr (h : t.regTab = s.regTab) (i : RegId) : t.reg i = s.reg i := by
  unfold State.reg; rw [h]

theorem bindings_congr (htab : t.regTab = s.regTab) (hlive : t.live = s.live)
    (hcfg : t.cfg = s.cfg) (hok : s.regTabOk ∧ s.liveOk) : t.regTabOk ∧ t.liveOk := by
  simpa only [State.regTabOk, State.liveOk, reg_congr htab, hlive, hcfg] using hok

theorem bindReg_reg (s : State) (r : RegId) (a size : Nat) (j : RegId) :
    (s.bindReg r a size).reg j =
      if r = j then ⟨true, BitVec.ofNat 32 a, BitVec.ofNat 32 size⟩ else s.reg j :=
  State.ext_reg_set s r _ j

theorem unbindReg_reg (s : State) (r j : RegId) :
    (s.unbindReg r).reg j = if r = j then ⟨false, 0#32, 0#32⟩ else s.reg j :=
  State.ext_reg_set s r _ j

/-- Binding a free register to a region that meets the contract of R46 keeps the invariants. -/
theorem bindReg_bindings {r : RegId} {a size : Nat} (hreg : s.regTabOk) (hlive : s.liveOk)
    (hfree : (s.reg r).occ = false) (hbus : s.cfg.sramSize ≤ 2 ^ 32) (hsize : 8 ≤ size)
    (hsizeMod : size % 8 = 0) (haMod : a % 8 = 0) (hinside : a + size ≤ s.cfg.sramSize)
    (hdisj : ∀ x ∈ s.live, a + size ≤ x.1 ∨ x.1 + x.2 ≤ a) (hsizeBus : size < 2 ^ 32) :
    (s.bindReg r a size).regTabOk ∧ (s.bindReg r a size).liveOk := by
  obtain ⟨hentry, hapart, hzero⟩ := hreg
  obtain ⟨hpair, hregion, howner⟩ := hlive
  have haN : (BitVec.ofNat 32 a).toNat = a := Nat.mod_eq_of_lt (by omega)
  have hsizeN : (BitVec.ofNat 32 size).toNat = size := Nat.mod_eq_of_lt hsizeBus
  have hdisjReg : ∀ j, (s.reg j).occ = true → a + size ≤ (s.reg j).addr.toNat ∨
      (s.reg j).addr.toNat + (s.reg j).size.toNat ≤ a := fun j hj =>
    hdisj _ (hentry j hj).2.2.2.2
  simp only [State.regTabOk, State.liveOk, bindReg_reg, State.bindReg_live, State.bindReg_cfg]
  refine ⟨⟨fun j hj => ?entry, fun i j hi hj hij => ?apart, fun j hj => ?zero⟩,
    insertRegion_pairwise hpair (fun x hx => by have := (hregion x hx).1; omega) (by omega) hdisj,
    fun x hx => ?region, fun x hx => ?owner⟩
  case entry =>
    by_cases hr : r = j
    · rw [if_pos hr, haN, hsizeN]
      exact ⟨hsize, hsizeMod, haMod, hinside, mem_insertRegion.mpr (.inl rfl)⟩
    · rw [if_neg hr] at hj ⊢
      obtain ⟨h8, hm, ham, hin, hmem⟩ := hentry j hj
      exact ⟨h8, hm, ham, hin, mem_insertRegion.mpr (.inr hmem)⟩
  case apart =>
    by_cases hri : r = i <;> by_cases hrj : r = j
    · exact absurd (hri.symm.trans hrj) hij
    · rw [if_neg hrj] at hj ⊢
      rw [if_pos hri, haN, hsizeN]
      exact hdisjReg j hj
    · rw [if_neg hri] at hi ⊢
      rw [if_pos hrj, haN, hsizeN]
      exact (hdisjReg i hi).symm
    · rw [if_neg hri] at hi ⊢
      rw [if_neg hrj] at hj ⊢
      exact hapart i j hi hj hij
  case zero =>
    by_cases hr : r = j
    · rw [if_pos hr] at hj; cases hj
    · rw [if_neg hr] at hj ⊢
      exact hzero j hj
  case region =>
    obtain rfl | hx := mem_insertRegion.mp hx
    · exact ⟨hsize, haMod, hsizeMod, hinside⟩
    · exact hregion x hx
  case owner =>
    obtain rfl | hx := mem_insertRegion.mp hx
    · exact ⟨r, by rw [if_pos rfl]; exact ⟨rfl, haN, hsizeN⟩⟩
    · obtain ⟨j, hocc, haddr, hsz⟩ := howner x hx
      have hr : r ≠ j := by
        rintro rfl
        exact absurd (hfree.symm.trans hocc) Bool.false_ne_true
      exact ⟨j, by rw [if_neg hr]; exact ⟨hocc, haddr, hsz⟩⟩

/-- Freeing an occupied register keeps the invariants: its region is the only one at its offset. -/
theorem unbindReg_bindings {r : RegId} (hreg : s.regTabOk) (hlive : s.liveOk)
    (hocc : (s.reg r).occ = true) : (s.unbindReg r).regTabOk ∧ (s.unbindReg r).liveOk := by
  obtain ⟨hentry, hapart, hzero⟩ := hreg
  obtain ⟨hpair, hregion, howner⟩ := hlive
  have hoff : ∀ j, r ≠ j → (s.reg j).occ = true →
      (s.reg j).addr.toNat ≠ (s.reg r).addr.toNat := by
    intro j hj hjocc
    have := hapart r j hocc hjocc hj
    have := (hentry r hocc).1
    have := (hentry j hjocc).1
    omega
  simp only [State.regTabOk, State.liveOk, unbindReg_reg, State.unbindReg_live,
    State.unbindReg_cfg]
  refine ⟨⟨fun j hj => ?entry, fun i j hi hj hij => ?apart, fun j hj => ?zero⟩,
    hpair.filter _, fun x hx => hregion x (mem_removeRegion.mp hx).1, fun x hx => ?owner⟩
  case entry =>
    by_cases hr : r = j
    · rw [if_pos hr] at hj; cases hj
    · rw [if_neg hr] at hj ⊢
      obtain ⟨h8, hm, ham, hin, hmem⟩ := hentry j hj
      exact ⟨h8, hm, ham, hin, mem_removeRegion.mpr ⟨hmem, hoff j hr hj⟩⟩
  case apart =>
    by_cases hri : r = i
    · rw [if_pos hri] at hi; cases hi
    by_cases hrj : r = j
    · rw [if_pos hrj] at hj; cases hj
    rw [if_neg hri] at hi ⊢
    rw [if_neg hrj] at hj ⊢
    exact hapart i j hi hj hij
  case zero =>
    by_cases hr : r = j
    · rw [if_pos hr]
    · rw [if_neg hr] at hj ⊢
      exact hzero j hj
  case owner =>
    obtain ⟨hx, hne⟩ := mem_removeRegion.mp hx
    obtain ⟨j, hjocc, haddr, hsz⟩ := howner x hx
    have hr : r ≠ j := by
      rintro rfl
      exact hne haddr.symm
    exact ⟨j, by rw [if_neg hr]; exact ⟨hjocc, haddr, hsz⟩⟩

/-- The bytes a slot gives a register: a positive multiple of 8 that fits its field. -/
theorem slotBytes_bounds {k : SlotId} (hok : s.lenTabOk) (hocc : (s.slot k).occ = true) :
    8 ≤ s.slotBytes k ∧ s.slotBytes k % 8 = 0 ∧ s.slotBytes k < 2 ^ 32 := by
  obtain ⟨hmod, hmin, -⟩ := hok.1 k hocc
  have := (s.slot k).full.isLt
  unfold State.slotBytes
  omega

theorem legal_sramSize {p : Params} (h : p.legal) : p.sramSize ≤ 2 ^ 32 := by
  obtain ⟨-, -, -, -, -, -, -, -, hbus, -⟩ := h
  omega

/-- A step leaves REG_TAB and the live set, or binds a free register to a region SramStore chose, or
frees an occupied one. -/
theorem step_bindings (h : step s = .next s') :
    (s'.regTab = s.regTab ∧ s'.live = s.live) ∨
    (∃ k r a, (s.slot k).occ = true ∧ (s.reg r).occ = false ∧
      s.sramAlloc (s.slotBytes k) = some a ∧
      s'.regTab = (s.bindReg r a (s.slotBytes k)).regTab ∧
      s'.live = (s.bindReg r a (s.slotBytes k)).live) ∨
    ∃ r, (s.reg r).occ = true ∧ s'.regTab = (s.unbindReg r).regTab ∧
      s'.live = (s.unbindReg r).live := by
  obtain ⟨i, -, -, sched, sib, program, hx⟩ | ⟨-, htab, hlive, -⟩ := step_hostStep_or_tables h
  · cases hx.registers with
    | same htab hlive | answer _ _ _ _ htab hlive | store _ _ _ _ htab hlive =>
      exact .inl ⟨htab, hlive⟩
    | bind k r a _ hslot hfree ha htab hlive =>
      exact .inr (.inl ⟨k, r, a, hslot, hfree, ha, htab, hlive⟩)
    | unbind r _ hocc htab hlive => exact .inr (.inr ⟨r, hocc, htab, hlive⟩)
  · exact .inl ⟨htab, hlive⟩

/-! ## The arena -/

/-- A canonical arena without an entry at `size` or above (R37). -/
def Memory.within (size : Nat) (m : Memory) : Prop := m.wf ∧ ∀ c ∈ m, c.1 < size

theorem Memory.write_within {size a n v : Nat} {m : Memory} (hm : m.within size)
    (hinside : a + n ≤ size) : (m.write a n v).within size := by
  obtain ⟨hwf, hlt⟩ := hm
  refine ⟨Memory.write_wf hwf a n v, fun c hc => ?_⟩
  obtain hc | ⟨-, hc⟩ := Memory.mem_write hc
  · exact hlt c hc
  · omega

/-- The bytes a command may store to lie in its registers' regions (R49). -/
theorem cmdStores_inside {op : Opcode} {c : Cmd} {a : Nat} (hreg : s.regTabOk)
    (hres : writesResult op c = true → s.fits c.res (s.cmdLb c))
    (hclob : ∀ j ∈ clobbers op, s.fits j (s.cmdLb c)) (h : s.cmdStores op c a) :
    a < s.cfg.sramSize := by
  have hregion (j : RegId) (hj : s.fits j (s.cmdLb c)) :
      (s.reg j).addr.toNat + s.cmdLb c / 8 ≤ s.cfg.sramSize := by
    obtain ⟨hocc, hsize⟩ := hj
    obtain ⟨-, -, -, hin, -⟩ := hreg.1 j hocc
    omega
  obtain ⟨hw, -, ha⟩ | ⟨j, hj, -, ha⟩ := h
  · exact ha.trans_le (hregion _ (hres hw))
  · exact ha.trans_le (hregion j (hclob j hj))

theorem retire_within {op : Opcode} {c : Cmd} (hreg : s.regTabOk)
    (hmem : s.mem.within s.cfg.sramSize) (h : exec (op.instr c) s = .next t) :
    t.mem.within s.cfg.sramSize := by
  obtain ⟨cr, z, m, d, fs, rfl, -, hwf, hin, -, hres, hclob⟩ := retire_update h
  refine ⟨hwf hmem.1, fun e he => ?_⟩
  obtain he | he := hin e he
  · exact hmem.2 e he
  · exact cmdStores_inside hreg hres hclob he

theorem HostEffect.within {i : Instr} (hreg : s.regTabOk) (hmem : s.mem.within s.cfg.sramSize)
    (h : HostEffect s i t) : t.mem.within s.cfg.sramSize := by
  cases h.registers with
  | same _ _ hsame | answer _ _ _ _ _ _ hsame => rw [hsame]; exact hmem
  | bind k r a _ _ _ ha _ _ hwrite =>
    obtain ⟨-, hinside, -⟩ := sramAlloc_some ha
    rw [hwrite]
    exact Memory.write_within hmem hinside
  | unbind r _ hocc _ _ hwrite =>
    obtain ⟨-, -, -, hinside, -⟩ := hreg.1 r hocc
    rw [hwrite]
    exact Memory.write_within hmem hinside
  | store a v _ hinside _ _ hwrite =>
    rw [hwrite]
    exact Memory.write_within hmem hinside

end Sys2Proof.Machine

open Sys2Proof Sys2Proof.Machine

/-- Settles O59: a binding meets the contract of R46, a free register's region goes with its entry, and
no other step reaches either. -/
theorem registerBindingsStayValid : Obligations.RegisterBindingsStayValid := by
  intro s s' hlegal hlen hreg hlive h
  have hcfg := step_cfg h
  obtain ⟨htab, hset⟩ | ⟨k, r, a, hslot, hfree, ha, htab, hset⟩ | ⟨r, hocc, htab, hset⟩ :=
    step_bindings h
  · exact bindings_congr htab hset hcfg ⟨hreg, hlive⟩
  · obtain ⟨hsize, hsizeMod, hsizeBus⟩ := slotBytes_bounds hlen hslot
    obtain ⟨haMod, hinside, hdisj⟩ := sramAlloc_some ha
    exact bindings_congr htab hset hcfg (bindReg_bindings hreg hlive hfree (legal_sramSize hlegal)
      hsize hsizeMod haMod hinside hdisj hsizeBus)
  · exact bindings_congr htab hset hcfg (unbindReg_bindings hreg hlive hocc)

/-- Settles O56: a RETIRE stores inside the regions of its registers, an operation of the HOST inside
the arena, and no other step reaches the arena. -/
theorem arenaStaysCanonicalAndInside : Obligations.ArenaStaysCanonicalAndInside := by
  rintro s s' ⟨-, harena, -, -, hreg, -⟩ h
  have hmem : s.mem.within s.cfg.sramSize := harena
  suffices hwithin : s'.mem.within s.cfg.sramSize by
    rw [State.arenaOk, step_cfg h]
    exact hwithin
  obtain ⟨sched, sib, act, -, hturn⟩ := step_next h
  cases hturn with
  | retire op _ _ _ hx =>
    exact retire_within (s := { s with sched := sched, sibPend := sib }) hreg hmem hx
  | hostOp _ _ rest _ _ _ _ _ _ _ hx =>
    exact hx.within (s := { s with sched := sched, sibPend := sib, program := rest }) hreg hmem
  | wait _ _ hx => cases hx <;> exact hmem
  | _ => exact hmem

end

section
/-! PROOFS. What each command that is ready answers (R124 to R135, R140), the written result read back
(R51), the laws of the additive datapath, and the obligations on these. -/

namespace Sys2Proof.Machine

open Sys2Proof.Config

/-! ## The datapath -/

/-- The three cases of R125 have one modulus. -/
theorem subResult_eq (lb a b : Nat) :
    subResult lb a b = (if b ≤ a then a - b else 2 ^ lb + a - b) % 2 ^ lb := by
  unfold subResult
  split <;> rfl

/-- A borrow leaves the inverted magnitude: the difference is below 2^lb without the modulus. -/
theorem subResult_borrow {lb a b : Nat} (hb : b < 2 ^ lb) (h : a < b) :
    subResult lb a b = 2 ^ lb + a - b := by
  rw [subResult_eq, if_neg (Nat.not_le.mpr h), Nat.mod_eq_of_lt (by omega)]

theorem subResult_no_borrow {lb a b : Nat} (ha : a < 2 ^ lb) (h : b ≤ a) :
    subResult lb a b = a - b := by
  rw [subResult_eq, if_pos h, Nat.mod_eq_of_lt (by omega)]

/-- The slot LEN_REQ gives ADD for b bits holds the sum of two operands of b bits (R93, R94). -/
theorem add_fits_lenFull {a b n : Nat} (ha : a < 2 ^ n) (hb : b < 2 ^ n) :
    a + b < 2 ^ lenFull .addc n := by
  have hle : n + 1 ≤ lenFull .addc n := by
    simp only [lenFull, lenBits, roundUp64]; omega
  have hpow : 2 ^ (n + 1) ≤ 2 ^ lenFull .addc n := Nat.pow_le_pow_right (by decide) hle
  rw [Nat.pow_succ] at hpow
  omega

/-- MODINV finds its modulus in N among the implicitly read registers. -/
theorem ctxValue_modinv (s : State) (c : Cmd) :
    ctxValue (s.aluArgs .modinv c).ctx nId = s.regBytes nId (s.cmdLb c) := rfl

/-! ## The commands -/

/-- A command whose result, if written, is `v`. -/
theorem exec_writes {s : State} {op : Opcode} {c : Cmd} (h : s.ready op c) (hop : op ≠ .cmp)
    (hcl : clobbers op = []) (hf : (op.alu (s.aluArgs op c)).faults = []) :
    exec (op.instr c) s = .next { s with
      mem     := s.memWithResult c (op.alu (s.aluArgs op c)).result
      carry   := (op.alu (s.aluArgs op c)).carry
      zero    := (op.alu (s.aluArgs op c)).zero
      busy    := false
      intStat := s.intStatDone c } := by
  rw [exec_plain h hcl hf, memWithResult_eq hop]

/-- An opcode that overwrites T0 and T1 leaves its result and flags to the parameter (R122, R129 to
R135). -/
theorem alu_of_clobbers {op : Opcode} (h : clobbers op = [t0Id, t1Id]) (x : AluArgs) :
    op ≠ .cmp ∧ (op.alu x).result = aluResult x % 2 ^ x.lb ∧ (op.alu x).carry = aluCarry x ∧
      (op.alu x).zero = aluZero x := by
  cases op with
  | add | sub | cmp | shift | logic | modadd | modsub => cases h
  | div | reduce | modmul | modexp | modinv => exact ⟨by decide, rfl, rfl, rfl⟩

/-- Reading a register after its result was written, where the length is a whole number of bytes. -/
theorem regVal_of_written {s t : State} {c : Cmd} {v : Nat} (hwf : s.mem.wf)
    (hdiscard : c.discard = false) (hbytes : s.cmdLb c % 8 = 0)
    (hfits : s.fits c.res (s.cmdLb c)) (htab : t.regTab = s.regTab)
    (hmem : t.mem = s.memWithResult c (v % 2 ^ s.cmdLb c)) :
    t.regVal c.res (s.cmdLb c) = .ok (v % 2 ^ s.cmdLb c) := by
  have hreg := reg_congr htab c.res
  have hpow : 256 ^ (s.cmdLb c / 8) = 2 ^ s.cmdLb c := by
    rw [show 256 = 2 ^ 8 by decide, ← Nat.pow_mul, Nat.mul_div_cancel' (Nat.dvd_of_mod_eq_zero hbytes)]
  have hfits' : t.fits c.res (s.cmdLb c) := by rwa [State.fits, hreg]
  rw [regVal_of_fits hfits', State.regBytes, hreg, hmem, State.memWithResult, hdiscard,
    if_neg Bool.false_ne_true, Memory.read_write_same hwf, hpow, Nat.mod_mod, Nat.mod_mod]

end Sys2Proof.Machine

open Sys2Proof Sys2Proof.Machine Sys2Proof.Config

/-- Settles O12: ADD overwrites no scratch and raises no fault event. -/
theorem addRetires : Obligations.AddRetires := by
  intro s c h
  exact exec_writes h (by decide) rfl rfl

/-- Settles O13: SUB is such a command too, and its difference has one modulus in both cases. -/
theorem subRetires : Obligations.SubRetires := by
  intro s c h
  rw [← subResult_eq]
  exact exec_writes h (by decide) rfl rfl

/-- Settles O15: the four opcodes are the parameter's, overwrite no scratch and raise no fault
event. -/
theorem parameterCommandsRetire : Obligations.ParameterCommandsRetire := by
  rintro s c op (rfl | rfl | rfl | rfl) h <;> exact exec_writes h (by decide) rfl rfl

/-- Settles O16: each premise says that the opcode raises no fault event, and it overwrites T0 and
T1. -/
theorem clobberingCommandsRetire : Obligations.ClobberingCommandsRetire := by
  intro s c op hop h
  have hquiet : clobbers op = [t0Id, t1Id] ∧ (op.alu (s.aluArgs op c)).faults = [] := by
    obtain rfl | ⟨rfl, hb⟩ | ⟨rfl | rfl, hred⟩ | ⟨rfl, hodd⟩ := hop
    · exact ⟨rfl, rfl⟩
    · exact ⟨rfl, if_neg hb⟩
    · exact ⟨rfl, if_neg (by simp [hred])⟩
    · exact ⟨rfl, if_neg (by simp [hred])⟩
    · exact ⟨rfl, if_neg (by rw [ctxValue_modinv, hodd]; decide)⟩
  obtain ⟨hclob, hfaults⟩ := hquiet
  obtain ⟨hcmp, hresult, hcarry, hzero⟩ := alu_of_clobbers hclob (s.aluArgs op c)
  obtain ⟨v0, v1, hexec⟩ := exec_clobber h hclob hfaults
  rw [memWithResult_eq hcmp, hresult, hcarry, hzero] at hexec
  exact ⟨v0, v1, hexec⟩

/-- Settles O17: each premise says that the opcode raises its one fault event, and it overwrites T0
and T1. -/
theorem faultingCommandsStillRetire : Obligations.FaultingCommandsStillRetire := by
  intro s c op k hop h
  have hfault : clobbers op = [t0Id, t1Id] ∧ (op.alu (s.aluArgs op c)).faults = [k] := by
    obtain ⟨rfl, rfl, hb⟩ | ⟨rfl, rfl, heven⟩ | ⟨rfl | rfl, rfl, hred⟩ := hop
    · exact ⟨rfl, if_pos hb⟩
    · exact ⟨rfl, if_pos heven⟩
    · exact ⟨rfl, if_pos hred⟩
    · exact ⟨rfl, if_pos hred⟩
  obtain ⟨hclob, hfaults⟩ := hfault
  obtain ⟨hcmp, -⟩ := alu_of_clobbers hclob (s.aluArgs op c)
  obtain ⟨r, cr, z, v0, v1, hexec⟩ := exec_faulting h hclob hfaults
  rw [memWithResult_eq hcmp] at hexec
  exact ⟨r, cr, z, v0, v1, hexec⟩

/-- Settles O20: O12 and O13 give the arena, and the result's bytes are read back from it. -/
theorem writtenResultIsReadBack : Obligations.WrittenResultIsReadBack := by
  intro s c hwf hdiscard hbytes
  have hwrites {op : Opcode} (hop : op ≠ .cmp) : writesResult op c = true := by
    simp [writesResult, hdiscard, hop]
  refine ⟨fun h => ⟨_, addRetires s c h, ?_⟩, fun h => ⟨_, subRetires s c h, ?_⟩⟩
  · exact regVal_of_written hwf hdiscard hbytes (ready_res h (hwrites (by decide))) rfl rfl
  · exact regVal_of_written hwf hdiscard hbytes (ready_res h (hwrites (by decide))) rfl rfl

/-- Settles O21: the difference is below 2^Lb in both cases, and the ADD slot has room for the
sum. -/
theorem additiveArithmeticLaws : Obligations.AdditiveArithmeticLaws := by
  intro x
  refine ⟨fun ha hb hle => ⟨decide_eq_false (Nat.not_lt.mpr hle), ?inverse⟩,
    fun hb hlt => ⟨decide_eq_true hlt, ?magnitude⟩, fun b hlb ha hb => ?fits⟩
  case inverse =>
    show (subResult x.lb x.a x.b + x.b) % 2 ^ x.lb = x.a
    rw [subResult_no_borrow ha hle, Nat.sub_add_cancel hle, Nat.mod_eq_of_lt ha]
  case magnitude =>
    show (2 ^ x.lb - 1 - subResult x.lb x.a x.b + 1) % 2 ^ x.lb = x.b - x.a
    rw [subResult_borrow hb hlt, Nat.mod_eq_of_lt (by omega)]
    omega
  case fits =>
    have hsum : x.a + x.b < 2 ^ x.lb := hlb ▸ add_fits_lenFull ha hb
    exact ⟨decide_eq_false (Nat.not_le.mpr hsum), Nat.mod_eq_of_lt hsum⟩

end

section
/-! PROOFS. RETIRE's checks as one list of registers that are checked in order (R121), every outcome of
a command, its frame, and the obligations on the order and the frame. -/

namespace Sys2Proof.Machine

open Sys2Proof.Config

variable {s t : State} {lb : Nat} {js ks : List RegId} {op : Opcode} {c : Cmd} {f : Fault}

/-- The checks of R49 on registers in order, up to the first that fails. -/
def State.checkAll (s : State) (lb : Nat) : List RegId → Except Fault Unit
  | []      => .ok ()
  | j :: js => (s.checkReg j lb).bind fun _ => s.checkAll lb js

theorem checkAll_cons (s : State) (lb : Nat) (j : RegId) (js : List RegId) :
    s.checkAll lb (j :: js) = (s.checkReg j lb).bind fun _ => s.checkAll lb js := rfl

theorem checkAll_append (s : State) (lb : Nat) (js ks : List RegId) :
    s.checkAll lb (js ++ ks) = (s.checkAll lb js).bind fun _ => s.checkAll lb ks := by
  induction js with
  | nil => rfl
  | cons j js ih =>
    rw [List.cons_append, checkAll_cons, checkAll_cons, ih]
    cases s.checkReg j lb <;> rfl

theorem checkAll_congr (h : t.regTab = s.regTab) (lb : Nat) (js : List RegId) :
    t.checkAll lb js = s.checkAll lb js := by
  induction js with
  | nil => rfl
  | cons j js ih => rw [checkAll_cons, checkAll_cons, ih, State.checkReg, reg_congr h]; rfl

theorem checkAll_of_fits (h : ∀ j ∈ js, s.fits j lb) : s.checkAll lb js = .ok () := by
  induction js with
  | nil => rfl
  | cons j js ih =>
    rw [checkAll_cons, checkReg_of_fits (h j List.mem_cons_self)]
    exact ih fun k hk => h k (List.mem_cons_of_mem _ hk)

theorem fits_of_checkAll (h : s.checkAll lb js = .ok ()) : ∀ j ∈ js, s.fits j lb := by
  induction js with
  | nil => simp
  | cons j js ih =>
    rw [checkAll_cons] at h
    cases hj : s.checkReg j lb with
    | error f => rw [hj] at h; cases h
    | ok u =>
      rw [hj] at h
      simpa using ⟨fits_of_checkReg hj, ih h⟩

/-- The first register that fails decides the fault. -/
theorem checkAll_first {i : RegId} (hpre : ∀ j ∈ js, s.fits j lb)
    (hi : s.checkReg i lb = .error f) : s.checkAll lb (js ++ i :: ks) = .error f := by
  rw [checkAll_append, checkAll_of_fits hpre, checkAll_cons, hi]
  rfl

theorem checkReg_error {i : RegId} (h : s.checkReg i lb = .error f) :
    f = .unboundRegister ∨ f = .registerTooSmall := by
  unfold State.checkReg at h
  split at h
  · cases h; exact .inl rfl
  · split at h <;> cases h
    exact .inr rfl

theorem checkAll_error (h : s.checkAll lb js = .error f) :
    f = .unboundRegister ∨ f = .registerTooSmall := by
  induction js with
  | nil => cases h
  | cons j js ih =>
    rw [checkAll_cons] at h
    cases hj : s.checkReg j lb with
    | error g => rw [hj] at h; cases h; exact checkReg_error hj
    | ok u => rw [hj] at h; exact ih h

/-! ## What RETIRE reads -/

theorem regVal_eq_check (s : State) (i : RegId) (lb : Nat) :
    s.regVal i lb = (s.checkAll lb [i]).map fun _ => s.regBytes i lb := by
  rw [State.regVal, checkAll_cons]
  cases s.checkReg i lb <;> rfl

theorem operandB_eq_check (s : State) (c : Cmd) :
    s.operandB c (s.cmdLb c) =
      (s.checkAll (s.cmdLb c) (if c.bImm then [] else [c.opB])).map fun _ => s.valB c := by
  unfold State.operandB State.valB
  split
  · rfl
  · exact regVal_eq_check s c.opB _

theorem readContext_eq_check (s : State) (lb : Nat) (js : List RegId) :
    s.readContext lb js =
      (s.checkAll lb js).map fun _ => js.map fun j => (j, s.regBytes j lb) := by
  induction js with
  | nil => rfl
  | cons j js ih =>
    rw [State.readContext, State.regVal, ih, checkAll_cons]
    cases s.checkReg j lb with
    | error f => rfl
    | ok u => cases s.checkAll lb js <;> rfl

/-- The registers checked before `exec` of the datapath: all but the overwritten scratch. -/
def gatheredRegs (op : Opcode) (c : Cmd) : List RegId :=
  [c.opA] ++ (if c.bImm then [] else [c.opB]) ++ implicitReads op ++
    (if writesResult op c then [c.res] else [])

theorem checkedRegs_eq (op : Opcode) (c : Cmd) :
    checkedRegs op c = gatheredRegs op c ++ clobbers op := rfl

theorem resultCheck_eq (s : State) (op : Opcode) (c : Cmd) (lb : Nat) :
    (if writesResult op c then s.checkReg c.res lb else .ok ()) =
      s.checkAll lb (if writesResult op c then [c.res] else []) := by
  split
  · rw [checkAll_cons]; cases s.checkReg c.res lb <;> rfl
  · rfl

theorem gather_eq_check (hocc : (s.slot c.len).occ = true) :
    gather op c s =
      (s.checkAll (s.cmdLb c) (gatheredRegs op c)).map fun _ => s.aluArgs op c := by
  have hlb : (s.slot c.len).full.toNat = s.cmdLb c := rfl
  unfold gather gatheredRegs
  rw [if_neg (by simp [hocc])]
  simp only [hlb, regVal_eq_check, operandB_eq_check, readContext_eq_check, resultCheck_eq,
    checkAll_append]
  cases s.checkAll (s.cmdLb c) [c.opA] with
  | error f => rfl
  | ok _ =>
    cases s.checkAll (s.cmdLb c) (if c.bImm then [] else [c.opB]) with
    | error f => rfl
    | ok _ =>
      cases s.checkAll (s.cmdLb c) (implicitReads op) with
      | error f => rfl
      | ok _ => cases s.checkAll (s.cmdLb c) (if writesResult op c then [c.res] else []) <;> rfl

/-! ## What RETIRE answers -/

theorem checkAll_withMem (s : State) (m : Memory) (d lb : Nat) (js : List RegId) :
    ({ s with mem := m, draws := d } : State).checkAll lb js = s.checkAll lb js :=
  checkAll_congr (s := s) (t := { s with mem := m, draws := d }) rfl lb js

/-- The stores to the scratch make the same checks: no store changes REG_TAB. -/
theorem storeClobbers_of_error (h : s.checkAll lb js = .error f) :
    storeClobbers lb s js = .error f := by
  induction js generalizing s with
  | nil => cases h
  | cons j js ih =>
    rw [checkAll_cons] at h
    unfold storeClobbers State.regStore
    cases hj : s.checkReg j lb with
    | error g => rw [hj] at h; cases h; rfl
    | ok u =>
      rw [hj] at h
      exact ih ((checkAll_withMem s _ _ lb js).trans h)

/-- `commit` of a command whose gathered registers are in order and whose scratch is not. -/
theorem commit_of_error {out : AluOut} (h2 : out.second = [])
    (hread : s.checkAll lb (gatheredRegs op c) = .ok ())
    (hclob : s.checkAll lb (clobbers op) = .error f) : commit op c lb out s = .error f := by
  unfold commit
  rw [h2]
  by_cases hw : writesResult op c = true
  · have hres : s.fits c.res lb := fits_of_checkAll hread _ (by simp [gatheredRegs, hw])
    have hstore : storeClobbers lb (s.putReg c.res lb out.result) (clobbers op) = .error f :=
      storeClobbers_of_error ((checkAll_withMem s _ _ lb _).trans hclob)
    simp only [if_pos hw, regStore_of_fits _ hres, storeSecond, hstore]
  · simp only [if_neg hw, storeSecond, storeClobbers_of_error hclob]

theorem raiseAll_regTab (s : State) (fs : List Cause) : (raiseAll s fs).regTab = s.regTab := by
  induction fs generalizing s with
  | nil => rfl
  | cons f fs ih => exact ih (s.raise f)

theorem settleDraws_regTab (out : AluOut) (s : State) : (settleDraws out s).regTab = s.regTab := by
  unfold settleDraws; split <;> rfl

theorem settle_second (lb : Nat) (op : Opcode) (x : AluArgs) (s : State) :
    (settle lb (op.alu x) s).second = [] := by
  unfold settle; split <;> exact alu_second op x

/-- With the slot occupied the first register that fails is the command's model fault. -/
theorem exec_of_error (hocc : (s.slot c.len).occ = true)
    (h : s.checkAll (s.cmdLb c) (checkedRegs op c) = .error f) :
    exec (op.instr c) s = .fault f := by
  rw [exec_command, retire, gather_eq_check hocc]
  rw [checkedRegs_eq, checkAll_append] at h
  cases hread : s.checkAll (s.cmdLb c) (gatheredRegs op c) with
  | error g => rw [hread] at h; cases h; rfl
  | ok u =>
    rw [hread] at h
    have hregs (out : AluOut) (js : List RegId) : (settleDraws out (raiseAll s out.faults)).checkAll
        (s.cmdLb c) js = s.checkAll (s.cmdLb c) js :=
      checkAll_congr ((settleDraws_regTab _ _).trans (raiseAll_regTab _ _)) _ _
    have hcommit := commit_of_error
      (s := settleDraws (op.alu (s.aluArgs op c)) (raiseAll s (op.alu (s.aluArgs op c)).faults))
      (settle_second (s.cmdLb c) op (s.aluArgs op c) s) ((hregs _ _).trans hread)
      ((hregs _ _).trans h)
    have hlb : (s.aluArgs op c).lb = s.cmdLb c := rfl
    simp only [Except.map, hlb, hcommit]

theorem exec_unconfigured (op : Opcode) (h : (s.slot c.len).occ = false) :
    exec (op.instr c) s = .fault .unconfiguredSlot := by
  rw [exec_command, retire, gather, if_pos h]

/-- A command that is ready retires: it has the shape of one of the three laws. -/
theorem exec_of_ready (h : s.ready op c) : ∃ t, exec (op.instr c) s = .next t := by
  have hshape : clobbers op = [t0Id, t1Id] ∨
      (clobbers op = [] ∧ (op.alu (s.aluArgs op c)).faults = []) := by
    cases op with
    | add | sub | cmp | shift | logic | modadd | modsub => exact .inr ⟨rfl, rfl⟩
    | div | reduce | modmul | modexp | modinv => exact .inl rfl
  obtain hclob | ⟨hclob, hfaults⟩ := hshape
  · obtain hf | ⟨-, hf⟩ | ⟨-, hf⟩ | ⟨-, hf⟩ := alu_faults op (s.aluArgs op c)
    · obtain ⟨v0, v1, hexec⟩ := exec_clobber h hclob hf
      exact ⟨_, hexec⟩
    all_goals
      obtain ⟨r, cr, z, v0, v1, hexec⟩ := exec_faulting h hclob hf
      exact ⟨_, hexec⟩
  · exact ⟨_, exec_plain h hclob hfaults⟩

/-- Every outcome of a command: the next state, or one of the three model faults of R121. -/
theorem exec_command_outcome (op : Opcode) (c : Cmd) (s : State) :
    (∃ t, exec (op.instr c) s = .next t) ∨ exec (op.instr c) s = .fault .unconfiguredSlot ∨
    exec (op.instr c) s = .fault .unboundRegister ∨
    exec (op.instr c) s = .fault .registerTooSmall := by
  cases hocc : (s.slot c.len).occ with
  | false => exact .inr (.inl (exec_unconfigured op hocc))
  | true =>
    cases hcheck : s.checkAll (s.cmdLb c) (checkedRegs op c) with
    | ok u => exact .inl (exec_of_ready ⟨hocc, fits_of_checkAll hcheck⟩)
    | error f =>
      have hexec := exec_of_error hocc hcheck
      obtain rfl | rfl := checkAll_error hcheck
      · exact .inr (.inr (.inl hexec))
      · exact .inr (.inr (.inr hexec))

/-! ## The frame -/

/-- Of the fault bits 3 to 5 a RETIRE sets its own opcode's alone (R129, R133 to R135). -/
theorem faultBits_own {fs : BitVec 6} (h : faultBits op fs) :
    (op ≠ .div → fs.getLsbD 3 = false) ∧ (op ≠ .modinv → fs.getLsbD 4 = false) ∧
    (op ≠ .modmul → op ≠ .modexp → fs.getLsbD 5 = false) := by
  obtain rfl | ⟨hop, rfl⟩ | ⟨hop, rfl⟩ | ⟨hop, rfl⟩ := h
  · exact ⟨fun _ => rfl, fun _ => rfl, fun _ _ => rfl⟩
  · exact ⟨fun hne => absurd hop hne, fun _ => rfl, fun _ _ => rfl⟩
  · exact ⟨fun _ => rfl, fun hne => absurd hop hne, fun _ _ => rfl⟩
  · exact ⟨fun _ => rfl, fun _ => rfl, fun hmul hexp => (hop.elim hmul hexp).elim⟩

/-- The latches after a RETIRE, bit by bit: the fault bits, and DONE if the command asks for it. -/
theorem retire_latch_getLsbD (x fs : BitVec 6) (irq : Bool) (k : Nat) :
    (if irq then x ||| fs ||| 2#6 else x ||| fs).getLsbD k =
      (x.getLsbD k || fs.getLsbD k || (irq && (2#6).getLsbD k)) := by
  cases irq <;> simp

end Sys2Proof.Machine

open Sys2Proof Sys2Proof.Machine

/-- Settles O18: RETIRE's checks are the checks of one list of registers, in its order. -/
theorem retireChecksInOrder : Obligations.RetireChecksInOrder := by
  intro s c op
  refine ⟨exec_unconfigured op, fun hocc pre i post hregs hpre => ⟨fun hfree => ?unbound,
    fun hbound hsmall => ?small⟩, exec_of_ready⟩
  case unbound =>
    have hfirst := checkAll_first (ks := post) hpre (checkReg_unbound _ hfree)
    exact exec_of_error hocc (hregs ▸ hfirst)
  case small =>
    have hfirst := checkAll_first (ks := post) hpre (checkReg_small hbound hsmall)
    exact exec_of_error hocc (hregs ▸ hfirst)

/-- Settles O19: a RETIRE is one update of the state, whose latches and log gain the fault bits of its
own opcode and the DONE bit it asks for. -/
theorem commandFrame : Obligations.CommandFrame := by
  intro s t c op h
  obtain ⟨cr, z, m, d, fs, rfl, hfs, -, -, hmem, -⟩ := retire_update h
  obtain ⟨hdiv, hinv, hmul⟩ := faultBits_own hfs
  have hlow {k : Nat} (hk : k < 3) : fs.getLsbD k = false := by
    rw [← Bool.not_eq_true]
    exact fun hbit => absurd (faultBits_high hfs hbit) (by omega)
  refine ⟨rfl, rfl, rfl, rfl, rfl, rfl, rfl, rfl, rfl, rfl, rfl, rfl, rfl, rfl, rfl, rfl, rfl, rfl,
    rfl, ?bit0, ?bit1, ?bit2, ?log, fun hne => ?bit3, fun hne => ?bit4, fun hm he => ?bit5, hmem⟩
  case bit0 => simp only [retire_latch_getLsbD, hlow (show 0 < 3 by decide)]; simp
  case bit1 => simp only [retire_latch_getLsbD, hlow (show 1 < 3 by decide)]; simp
  case bit2 => simp only [retire_latch_getLsbD, hlow (show 2 < 3 by decide)]; simp
  case log =>
    ext k hk
    simp [hlow hk]
  case bit3 => simp only [retire_latch_getLsbD, BitVec.getLsbD_or, hdiv hne]; simp
  case bit4 => simp only [retire_latch_getLsbD, BitVec.getLsbD_or, hinv hne]; simp
  case bit5 => simp only [retire_latch_getLsbD, BitVec.getLsbD_or, hmul hm he]; simp

end

section
/-! PROOFS. Whose turn a step is and what it runs (R9 to R11, R73, R117), the ENGINE's turns, the two
answers with nothing scheduled (R180), and the obligations on these. -/

namespace Sys2Proof.Machine

open Sys2Proof.Config

variable {s s' : State}

/-! ## A step is a turn -/

theorem step_scheduled {t : Turn} {rest : List Turn} (h : s.sched = t :: rest) :
    step s = takeTurn t.act { s with sched := rest, sibPend := t.sib } := by
  rw [step, h]; rfl

theorem step_unscheduled (h : s.sched = []) : step s = unscheduledStep s := by
  rw [step, h]

theorem unscheduled_host (h : s.hostEnabled = true) : unscheduledStep s = takeTurn .host s :=
  if_pos h

theorem unscheduled_engine (hh : s.hostEnabled = false) (he : s.engineEnabled = true) :
    unscheduledStep s = takeTurn .engine s := by
  simp only [unscheduledStep, hh, he, Bool.false_eq_true, if_false, if_true]

theorem unscheduled_demux (hh : s.hostEnabled = false) (he : s.engineEnabled = false)
    (hd : s.demuxEnabled = true) : unscheduledStep s = takeTurn (.demux none) s := by
  simp only [unscheduledStep, hh, he, hd, Bool.false_eq_true, if_false, if_true]

theorem unscheduled_none (hh : s.hostEnabled = false) (he : s.engineEnabled = false)
    (hd : s.demuxEnabled = false) :
    unscheduledStep s = if s.ended then .refused .runEnded else .fault .stuck := by
  simp only [unscheduledStep, hh, he, hd, Bool.false_eq_true, if_false]

theorem nextAgent_unscheduled (h : s.sched = []) :
    s.nextAgent =
      if s.hostEnabled then .host else if s.engineEnabled then .engine else .demux none := by
  rw [State.nextAgent, h]

/-! ## What a turn runs -/

theorem decodeCommand_of_decode {w : Word} {i : Instr} (h : decode (.command w) = .ok i) :
    decodeCommand w = some i := by
  unfold decode at h
  cases hd : decodeCommand w with
  | none => simp only [hd] at h; cases h
  | some j => simp only [hd] at h; cases h; rfl

theorem engineEnabled_of_decode {i : Instr} (hb : s.busy = true)
    (hd : decode (.command s.cur) = .ok i) : s.engineEnabled = true := by
  rw [State.engineEnabled, if_pos hb, decodeCommand_of_decode hd]
  rfl

theorem engineTurn_retire {i : Instr} (hb : s.busy = true) (hd : decode (.command s.cur) = .ok i) :
    engineTurn s = exec i s := by
  rw [engineTurn, if_pos hb, hd]

theorem engineTurn_pop (hb : s.busy = false) : engineTurn s = .next s.pop := by
  rw [engineTurn, hb]; rfl

theorem issue_exec {a : HostAccess} {op : HostOp} {i : Instr} (hr : routeAccess s.cfg a = .ok op)
    (hd : decode (.host op) = .ok i) : issue a s = exec i s := by
  simp only [issue, hr, hd]

theorem hostTurn_issue {a : HostAccess} {more : List HostAccess} (hw : s.hwait = .none)
    (hp : s.program = a :: more) : hostTurn s = issue a { s with program := more } := by
  simp only [hostTurn, hw, hp, if_true]

theorem hostEnabled_of_program {a : HostAccess} {more : List HostAccess} (hw : s.hwait = .none)
    (hp : s.program = a :: more) : s.hostEnabled = true := by
  rw [State.hostEnabled, if_pos hw, hp]; rfl

theorem hostTurn_wait (h : s.hwait ≠ .none) : hostTurn s = .next s.waitStep :=
  if_neg h

/-- An unassigned opcode leaves the ENGINE that holds it without an enabled step (R137). -/
theorem engine_hangs (hb : s.busy = true) (hd : decodeCommand s.cur = none) :
    s.engineEnabled = false ∧ engineTurn s = .next s := by
  refine ⟨by rw [State.engineEnabled, if_pos hb, hd]; rfl, ?_⟩
  simp only [engineTurn, hb, decode, hd, if_true]

/-! ## Answers of the step alone -/

/-- The two answers of a step with nothing enabled (R180). -/
def IsRest (r : Result) : Prop := r = .refused .runEnded ∨ r = .fault .stuck

theorem isRest_ite {p : Prop} [Decidable p] {a b : Result} (ha : ¬ IsRest a) (hb : ¬ IsRest b) :
    ¬ IsRest (if p then a else b) := by
  split
  · exact ha
  · exact hb

theorem not_isRest_next (t : State) : ¬ IsRest (.next t) := by
  rintro (h | h) <;> cases h

theorem not_isRest_refused {r : Refusal} (h : r ≠ .runEnded) : ¬ IsRest (.refused r) := by
  rintro (hr | hr) <;> cases hr
  exact h rfl

theorem not_isRest_fault {f : Fault} (h : f ≠ .stuck) : ¬ IsRest (.fault f) := by
  rintro (hf | hf) <;> cases hf
  exact h rfl

theorem allocateWith_not_isRest (answer : Option Nat) (r : RegId) (size : Nat) (s : State) :
    ¬ IsRest (s.allocateWith answer r size) := by
  cases answer with
  | none => exact not_isRest_next _
  | some a => exact isRest_ite (not_isRest_next _) (not_isRest_fault (by decide))

theorem arenaAccess_not_isRest (a : Word) (s go : State) : ¬ IsRest (s.arenaAccess a go) :=
  isRest_ite (not_isRest_refused (by decide)) <| isRest_ite (not_isRest_refused (by decide)) <|
    isRest_ite (not_isRest_next _) (not_isRest_fault (by decide))

theorem exec_not_isRest (i : Instr) (s : State) : ¬ IsRest (exec i s) := by
  cases hi : i.isCommand with
  | true =>
    obtain ⟨op, c, rfl⟩ := (isCommand_iff i).mp hi
    obtain ⟨t, h⟩ | h | h | h := exec_command_outcome op c s <;> rw [h]
    · exact not_isRest_next t
    all_goals exact not_isRest_fault (by decide)
  | false =>
    cases i with
    | add | sub | cmp | shift | logic | div | reduce | modadd | modsub | modmul | modexp | modinv =>
      cases hi
    | lenReq o w =>
      show ¬ IsRest (execLenReq o w s)
      unfold execLenReq
      split <;> exact not_isRest_next _
    | lenReset => exact isRest_ite (not_isRest_next _) (not_isRest_fault (by decide))
    | regAlloc k =>
      refine isRest_ite (p := (s.slot k).occ = false) (not_isRest_next _) ?_
      cases s.freeReg with
      | none => exact not_isRest_next _
      | some r => exact allocateWith_not_isRest _ r _ _
    | regBind r k =>
      exact isRest_ite (p := isReserved r = false ∨ (s.reg r).occ = true) (not_isRest_next _) <|
        isRest_ite (p := (s.slot k).occ = false) (not_isRest_next _)
          (allocateWith_not_isRest _ r _ _)
    | regFree r =>
      exact isRest_ite (not_isRest_next _) <|
        isRest_ite (not_isRest_next _) (not_isRest_fault (by decide))
    | sramRd32 a => exact arenaAccess_not_isRest a s _
    | sramWr32 a v => exact arenaAccess_not_isRest a s _
    | _ => exact not_isRest_next _

theorem issue_not_isRest (a : HostAccess) (s : State) : ¬ IsRest (issue a s) := by
  unfold issue
  split
  next r hr =>
    refine not_isRest_refused ?_
    rintro rfl
    cases a with
    | coded op => cases hr
    | mmio write bytes addr data =>
      unfold routeAccess routeAddress at hr
      repeat' split at hr
      all_goals cases hr
  next op _ =>
    split
    next i _ => exact exec_not_isRest i s
    next e _ =>
      cases e with
      | readsAsZero | writeIgnored => exact not_isRest_next _
      | unassignedOpcode | misalignedOffset | outsideRegisterSpace | misalignedArenaOffset =>
        exact not_isRest_refused (by decide)

/-- No turn of an agent answers that the run has ended or is stuck. -/
theorem takeTurn_not_isRest (act : Act) (s : State) : ¬ IsRest (takeTurn act s) := by
  cases act with
  | sibling | demux pick => exact not_isRest_next _
  | host =>
    show ¬ IsRest (hostTurn s)
    unfold hostTurn
    refine isRest_ite ?_ (not_isRest_next _)
    split
    · exact not_isRest_next _
    · exact issue_not_isRest _ _
  | engine =>
    show ¬ IsRest (engineTurn s)
    unfold engineTurn
    refine isRest_ite ?_ (not_isRest_next _)
    split
    · exact exec_not_isRest _ _
    · exact not_isRest_next _

/-- A step comes to rest only with nothing scheduled and no agent enabled, and the answer then is
whether the run has ended. -/
theorem step_isRest (h : IsRest (step s)) :
    s.sched = [] ∧ s.hostEnabled = false ∧ s.engineEnabled = false ∧ s.demuxEnabled = false ∧
    step s = if s.ended then .refused .runEnded else .fault .stuck := by
  cases hs : s.sched with
  | cons t rest => rw [step_scheduled hs] at h; exact absurd h (takeTurn_not_isRest _ _)
  | nil =>
    rw [step_unscheduled hs] at h ⊢
    cases hh : s.hostEnabled with
    | true => rw [unscheduled_host hh] at h; exact absurd h (takeTurn_not_isRest _ _)
    | false =>
      cases he : s.engineEnabled with
      | true => rw [unscheduled_engine hh he] at h; exact absurd h (takeTurn_not_isRest _ _)
      | false =>
        cases hd : s.demuxEnabled with
        | true => rw [unscheduled_demux hh he hd] at h; exact absurd h (takeTurn_not_isRest _ _)
        | false => exact ⟨rfl, rfl, rfl, rfl, unscheduled_none hh he hd⟩

theorem ended_iff :
    s.ended = true ↔ s.program = [] ∧ s.fifo = [] ∧ s.busy = false ∧ s.hwait = .none ∧
      s.demux = .idle ∧ s.irqAlu = false := by
  simp only [State.ended, Bool.and_eq_true, List.isEmpty_iff, isIdle_iff, decide_eq_true_eq,
    Bool.not_eq_true', and_assoc]

/-- At the end of a run no agent is enabled. -/
theorem disabled_of_ended (h : s.ended = true) :
    s.hostEnabled = false ∧ s.engineEnabled = false ∧ s.demuxEnabled = false := by
  obtain ⟨hprog, hfifo, hbusy, hwait, hdemux, hirq⟩ := ended_iff.mp h
  simp [State.hostEnabled, State.engineEnabled, State.demuxEnabled, hprog, hfifo, hbusy, hwait,
    hdemux, hirq]

theorem step_runEnded_iff : step s = .refused .runEnded ↔ s.sched = [] ∧ s.ended = true := by
  constructor
  · intro h
    obtain ⟨hs, -, -, -, hstep⟩ := step_isRest (.inl h)
    refine ⟨hs, ?_⟩
    by_contra hend
    rw [if_neg hend, h] at hstep
    cases hstep
  · rintro ⟨hs, hend⟩
    obtain ⟨hh, he, hd⟩ := disabled_of_ended hend
    rw [step_unscheduled hs, unscheduled_none hh he hd, if_pos hend]

theorem step_stuck_iff :
    step s = .fault .stuck ↔ s.sched = [] ∧ s.hostEnabled = false ∧ s.engineEnabled = false ∧
      s.demuxEnabled = false ∧ s.ended = false := by
  constructor
  · intro h
    obtain ⟨hs, hh, he, hd, hstep⟩ := step_isRest (.inr h)
    refine ⟨hs, hh, he, hd, ?_⟩
    by_contra hend
    rw [if_pos (Bool.not_eq_false _ ▸ hend), h] at hstep
    cases hstep
  · rintro ⟨hs, hh, he, hd, hend⟩
    rw [step_unscheduled hs, unscheduled_none hh he hd, hend]
    rfl

/-- No step ends a held command whose opcode is unassigned. -/
theorem step_keeps_busy (hb : s.busy = true) (hd : decodeCommand s.cur = none)
    (h : step s = .next s') : s'.busy = true := by
  obtain ⟨sched, sib, act, -, hturn⟩ := step_next h
  cases hturn with
  | retire op _ _ ho =>
    have hsome := decodeCommand_of_decode (decode_command ho)
    exact absurd (hd.symm.trans hsome) (by simp)
  | pop _ _ hidle => exact absurd (hidle.symm.trans hb) Bool.false_ne_true
  | hostOp _ _ _ _ _ _ _ _ _ _ hx => exact hx.frame.1.trans hb
  | wait _ _ hx => cases hx <;> exact hb
  | _ => exact hb

end Sys2Proof.Machine

open Sys2Proof Sys2Proof.Machine

/-- Settles O5: the turn by the schedule or the first agent enabled, and what the turn runs by the
command held or the next access. -/
theorem stepRunsTheFetchedInstruction : Obligations.StepRunsTheFetchedInstruction := by
  intro s i
  refine ⟨fun t rest hs ha hb hd => ?retire, fun hs hh hb hd => ?retireUnscheduled,
    fun t rest a more op hs ha hw hp hr hd => ?issue,
    fun a more op hs hw hp hr hd => ?issueUnscheduled, fun t rest => step_scheduled,
    fun hs hh => (step_unscheduled hs).trans (unscheduled_host hh),
    fun hs hh he => (step_unscheduled hs).trans (unscheduled_engine hh he),
    fun hs hh he hd => (step_unscheduled hs).trans (unscheduled_demux hh he hd),
    fun hs hany => ?nextAgent⟩
  case retire =>
    rw [step_scheduled hs, ha]
    exact engineTurn_retire (s := { s with sched := rest, sibPend := t.sib }) hb hd
  case retireUnscheduled =>
    rw [step_unscheduled hs, unscheduled_engine hh (engineEnabled_of_decode hb hd)]
    exact engineTurn_retire hb hd
  case issue => exact (step_host_issue hs ha hw hp).trans (issue_exec hr hd)
  case issueUnscheduled =>
    rw [step_unscheduled hs, unscheduled_host (hostEnabled_of_program hw hp)]
    exact (hostTurn_issue hw hp).trans (issue_exec hr hd)
  case nextAgent =>
    rw [step_unscheduled hs, nextAgent_unscheduled hs]
    cases hh : s.hostEnabled with
    | true => exact unscheduled_host hh
    | false =>
      cases he : s.engineEnabled with
      | true => exact unscheduled_engine hh he
      | false =>
        rw [hh, he] at hany
        exact unscheduled_demux hh he hany

/-- Settles O6: POP as one update with an entry, the identity without one, and a RETIRE leaves the
FIFO and the command. -/
theorem popTakesTheHead : Obligations.PopTakesTheHead := by
  intro s t rest hs ha
  have hstep : step s = engineTurn { s with sched := rest, sibPend := t.sib } := by
    rw [step_scheduled hs, ha]; rfl
  refine ⟨fun w more hb hf => ?head, fun hb hf => ?empty, fun hb s' h => ?busy⟩
  case head =>
    rw [hstep, engineTurn_pop (by exact hb)]
    exact congrArg _ (pop_eq (s := { s with sched := rest, sibPend := t.sib }) hf)
  case empty =>
    rw [hstep, engineTurn_pop (by exact hb)]
    simp only [State.pop, hf]
  case busy =>
    rw [hstep] at h
    cases engineTurn_next h with
    | pass => exact ⟨rfl, rfl⟩
    | retire op _ _ _ hx => rw [retire_frame hx]; exact ⟨rfl, rfl⟩
    | pop _ _ hidle => exact absurd (hidle.symm.trans hb) Bool.false_ne_true

/-- Settles O8: the ENGINE passes, retires or pops. -/
theorem engineLeavesTheRestAlone : Obligations.EngineLeavesTheRestAlone := by
  intro s s' hagent h
  obtain ⟨sched, sib, act, hact, hturn⟩ := step_next h
  rw [hagent] at hact
  subst hact
  cases hturn with
  | pass => exact ⟨.inl rfl, rfl, rfl, rfl, rfl, rfl, rfl, rfl, rfl, rfl, rfl, rfl, rfl, rfl⟩
  | retire op _ _ _ hx =>
    rw [retire_frame hx]
    exact ⟨.inl rfl, rfl, rfl, rfl, rfl, rfl, rfl, rfl, rfl, rfl, rfl, rfl, rfl, rfl⟩
  | pop w rest _ hf =>
    exact ⟨.inr ⟨w, hf⟩, rfl, rfl, rfl, rfl, rfl, rfl, rfl, rfl, rfl, rfl, rfl, rfl, rfl⟩

/-- Settles O10: no turn gives either answer, so they are the step's own. -/
theorem runEndsOrHangsOnlyWithNothingEnabled :
    Obligations.RunEndsOrHangsOnlyWithNothingEnabled := by
  intro s
  refine ⟨?_, step_stuck_iff⟩
  rw [step_runEnded_iff, ended_iff]

/-- Settles O7: the ENGINE has no step and no other agent writes `busy` or takes a word, so neither
wait's condition comes about. -/
theorem unassignedOpcodeHangsTheEngine : Obligations.UnassignedOpcodeHangsTheEngine := by
  intro s hb hopc
  have hd := decodeCommand_none hopc
  obtain ⟨hdisabled, hpass⟩ := engine_hangs hb hd
  refine ⟨hdisabled, hpass, fun hend => ?running, fun s' h => ?kept⟩
  case running =>
    obtain ⟨-, -, hidle, -⟩ := ended_iff.mp (step_runEnded_iff.mp hend).2
    exact absurd (hidle.symm.trans hb) Bool.false_ne_true
  case kept =>
    have hwait (hopen : s.hwait ≠ .none) := step_open_wait h hopen
    have hfifo : s'.cur = s.cur ∧ (s'.fifo = s.fifo ∨
        (s.fifo.length < s.cfg.fifoDepth ∧ s.fifo.length ≤ s'.fifo.length)) := by
      obtain ⟨hf, hc⟩ | ⟨hidle, -⟩ | ⟨w, hroom, hf, hc⟩ := step_fifo h
      · exact ⟨hc, .inl hf⟩
      · exact absurd (hidle.symm.trans hb) Bool.false_ne_true
      · exact ⟨hc, .inr ⟨hroom, by rw [hf, List.length_append]; omega⟩⟩
    obtain ⟨hcur, hfifo⟩ := hfifo
    refine ⟨step_keeps_busy hb hd h, hcur, ?_, fun hidle => ?_, fun hroom hfull => ⟨?_, ?_⟩⟩
    · obtain hf | ⟨-, hle⟩ := hfifo
      · rw [hf]
      · exact hle
    · have hopen : s.hwait ≠ .none := by obtain hw | hw := hidle <;> simp [hw]
      obtain hstays | ⟨-, hnot⟩ := (hwait hopen).2.2 hidle
      · exact hstays
      · exact absurd (hnot.symm.trans hb) Bool.false_ne_true
    · have hopen : s.hwait ≠ .none := by obtain hw | hw := hroom <;> simp [hw]
      obtain hstays | hspace := (hwait hopen).2.1 hroom
      · exact hstays
      · exact absurd hspace (Nat.not_lt.mpr hfull)
    · obtain hf | ⟨hspace, -⟩ := hfifo
      · exact hf
      · exact absurd hspace (Nat.not_lt.mpr hfull)

end

section
/-! PROOFS. The steps of the two waits (R75 to R79): opening, CHECK, WAKE and completion under both
policies, and the obligations on them. -/

namespace Sys2Proof.Machine

open Sys2Proof.Config

variable {s : State}

theorem State.ownMask_event {s : State} (c : Cause) (hp : s.cfg.policy = .event) :
    s.ownMask c = s.intMask ||| c.bit :=
  if_pos hp

/-- Of the six causes a wait for room leaves the other wait's alone masked when it arms (R77). -/
theorem armMask_fifoWm (m : BitVec 6) : armMask .fifoWm m = m &&& 0b000010#6 :=
  congrArg (m &&& ·) (by decide)

theorem armMask_done (m : BitVec 6) : armMask .done m = m &&& 0b000001#6 :=
  congrArg (m &&& ·) (by decide)

/-! ## What the open wait's step does -/

theorem waitStep_pass (h : s.waitEnabled = false) : s.waitStep = s := by
  rw [State.waitStep, h]; rfl

theorem waitStep_roomDone (hw : s.hwait = .roomCheck) (hr : s.room = true) :
    s.waitStep = s.finishRoom := by
  have he : s.waitEnabled = true := by
    rw [State.waitEnabled, hw]
    cases s.cfg.policy with
    | poll => exact hr
    | event => rfl
  simp only [State.waitStep, he, hw, hr, if_true]

theorem waitStep_idleDone (hw : s.hwait = .idleCheck) (hi : s.isIdle = true) :
    s.waitStep = s.finishIdle := by
  have he : s.waitEnabled = true := by
    rw [State.waitEnabled, hw]
    cases s.cfg.policy with
    | poll => exact hi
    | event => rfl
  simp only [State.waitStep, he, hw, hi, if_true]

theorem waitStep_armRoom (hp : s.cfg.policy = .event) (hw : s.hwait = .roomCheck)
    (hr : s.room = false) : s.waitStep = s.armRoom := by
  have he : s.waitEnabled = true := by rw [State.waitEnabled, hw, hp]
  simp only [State.waitStep, he, hw, hr, if_true, Bool.false_eq_true, if_false]

theorem waitStep_armIdle (hp : s.cfg.policy = .event) (hw : s.hwait = .idleCheck)
    (hi : s.isIdle = false) : s.waitStep = s.armIdle := by
  have he : s.waitEnabled = true := by rw [State.waitEnabled, hw, hp]
  simp only [State.waitStep, he, hw, hi, if_true, Bool.false_eq_true, if_false]

/-- WAKE of a wait for room (R77). -/
theorem waitStep_roomArmed (hp : s.cfg.policy = .event) (hw : s.hwait = .roomArmed) :
    s.waitStep = if s.sigFifo = true ∧ s.demux = .idle then s.wakeRoom else s := by
  simp only [State.waitStep, State.waitEnabled, hw, hp, Bool.and_eq_true, decide_eq_true_eq]

/-- WAKE of a wait for idleness (R79). -/
theorem waitStep_idleArmed (hp : s.cfg.policy = .event) (hw : s.hwait = .idleArmed) :
    s.waitStep = if s.sigDone = true ∧ s.demux = .idle then s.wakeIdle else s := by
  simp only [State.waitStep, State.waitEnabled, hw, hp, Bool.and_eq_true, decide_eq_true_eq]

/-- Under POLL a wait whose condition does not hold has no step (R76, R78). -/
theorem waitStep_poll_blocked (hp : s.cfg.policy = .poll)
    (h : (s.hwait = .roomCheck ∧ s.room = false) ∨ (s.hwait = .idleCheck ∧ s.isIdle = false)) :
    s.waitStep = s := by
  apply waitStep_pass
  obtain ⟨hw, hr⟩ | ⟨hw, hi⟩ := h
  · rw [State.waitEnabled, hw, hp]; exact hr
  · rw [State.waitEnabled, hw, hp]; exact hi

/-- The HOST's scheduled turn in an open wait is the wait's step. -/
theorem step_host_wait {t : Turn} {rest : List Turn} (hs : s.sched = t :: rest)
    (ha : t.act = .host) (hopen : s.hwait ≠ .none) :
    step s = .next ({ s with sched := rest, sibPend := t.sib } : State).waitStep := by
  rw [step_scheduled hs, ha]
  exact hostTurn_wait (s := { s with sched := rest, sibPend := t.sib }) hopen

end Sys2Proof.Machine

open Sys2Proof Sys2Proof.Machine

/-- Settles O26: opening either wait for room is one update with room and one without. -/
theorem roomWaitsCompleteAtOnceOrBlock : Obligations.RoomWaitsCompleteAtOnceOrBlock := by
  rintro s w _ rfl
  refine ⟨fun hroom => ⟨?_, ?_⟩, fun hfull => ⟨?_, ?_⟩⟩
  · exact congrArg Host.Outcome.next ((startRoom_submit s w).trans (if_pos (room_iff.mpr hroom)))
  · exact congrArg Host.Outcome.next ((startRoom_read s).trans (if_pos (room_iff.mpr hroom)))
  · have hno : ¬ s.room = true := by simp [not_room_iff.mpr hfull]
    exact congrArg Host.Outcome.next ((startRoom_submit s w).trans (if_neg hno))
  · have hno : ¬ s.room = true := by simp [not_room_iff.mpr hfull]
    exact congrArg Host.Outcome.next ((startRoom_read s).trans (if_neg hno))

/-- Settles O27: opening a wait for idleness is one update on an idle block and one otherwise. -/
theorem idleWaitCompletesAtOnceOrBlocks : Obligations.IdleWaitCompletesAtOnceOrBlocks := by
  rintro s _ rfl
  refine ⟨fun hfifo hbusy => ?_, fun hbusy => ?_⟩
  · exact congrArg Host.Outcome.next ((startIdle_eq s).trans (if_pos (isIdle_iff.mpr ⟨hfifo, hbusy⟩)))
  · have hno : ¬ s.isIdle = true := by simp [not_isIdle_iff.mpr hbusy]
    exact congrArg Host.Outcome.next ((startIdle_eq s).trans (if_neg hno))

/-- Settles O28: under POLL the wait's step completes it where the condition holds, and there is none
where it does not. -/
theorem pollWaitSteps : Obligations.PollWaitSteps := by
  rintro s u t rest hs ha hp hu
  have hstep (hopen : s.hwait ≠ .none) : step s = .next u.waitStep := by
    rw [hu]; exact step_host_wait hs ha hopen
  have hwait : u.hwait = s.hwait := by rw [hu]
  have hpu : u.cfg.policy = .poll := by rw [hu]; exact hp
  have hroomU : u.room = s.room := by rw [hu]; rfl
  have hidleU : u.isIdle = s.isIdle := by rw [hu]; rfl
  refine ⟨fun hw hroom => ⟨fun hheld => ?read, fun w hheld => ?submit⟩, fun hw hfull => ?full,
    fun hw hfifo hbusy => ?idle, fun hw hbusy => ?busy⟩
  case read =>
    rw [hstep (by simp [hw]), waitStep_roomDone (hwait.trans hw) (hroomU.trans (room_iff.mpr hroom)),
      finishRoom_read (by rw [hu]; exact hheld), State.ownMask_poll _ hpu, hu]
    rfl
  case submit =>
    have hr := hroomU.trans (room_iff.mpr hroom)
    rw [hstep (by simp [hw]), waitStep_roomDone (hwait.trans hw) hr,
      finishRoom_submit (by rw [hu]; exact hheld) hr, State.ownMask_poll _ hpu, hu]
    rfl
  case full =>
    rw [hstep (by simp [hw]), waitStep_poll_blocked hpu
      (.inl ⟨hwait.trans hw, hroomU.trans (not_room_iff.mpr hfull)⟩)]
  case idle =>
    rw [hstep (by simp [hw]), waitStep_idleDone (hwait.trans hw)
      (hidleU.trans (isIdle_iff.mpr ⟨hfifo, hbusy⟩)), finishIdle_eq, State.ownMask_poll _ hpu, hu]
    rfl
  case busy =>
    rw [hstep (by simp [hw]), waitStep_poll_blocked hpu
      (.inr ⟨hwait.trans hw, hidleU.trans (not_isIdle_iff.mpr hbusy)⟩)]

/-- Settles O29: under EVENT the CHECK completes or arms, and the WAKE asks for the signal and the
DEMUX at IDLE. -/
theorem eventWaitSteps : Obligations.EventWaitSteps := by
  rintro s u t rest hs ha hp hu
  have hstep (hopen : s.hwait ≠ .none) : step s = .next u.waitStep := by
    rw [hu]; exact step_host_wait hs ha hopen
  have hwait : u.hwait = s.hwait := by rw [hu]
  have hpu : u.cfg.policy = .event := by rw [hu]; exact hp
  have hroomU : u.room = s.room := by rw [hu]; rfl
  have hidleU : u.isIdle = s.isIdle := by rw [hu]; rfl
  refine ⟨fun hw hroom => ⟨fun hheld => ?read, fun w hheld => ?submit⟩, fun hw hfull => ?armRoom,
    fun hw => ?wakeRoom, fun hw hfifo hbusy => ?idle, fun hw hbusy => ?armIdle, fun hw => ?wakeIdle⟩
  case read =>
    rw [hstep (by simp [hw]), waitStep_roomDone (hwait.trans hw) (hroomU.trans (room_iff.mpr hroom)),
      finishRoom_read (by rw [hu]; exact hheld), State.ownMask_event _ hpu, hu]
    rfl
  case submit =>
    have hr := hroomU.trans (room_iff.mpr hroom)
    rw [hstep (by simp [hw]), waitStep_roomDone (hwait.trans hw) hr,
      finishRoom_submit (by rw [hu]; exact hheld) hr, State.ownMask_event _ hpu, hu]
    rfl
  case armRoom =>
    rw [hstep (by simp [hw]), waitStep_armRoom hpu (hwait.trans hw)
      (hroomU.trans (not_room_iff.mpr hfull)), State.armRoom, armMask_fifoWm, hu]
  case wakeRoom =>
    rw [hstep (by simp [hw]), waitStep_roomArmed hpu (hwait.trans hw), hu]
    rfl
  case idle =>
    rw [hstep (by simp [hw]), waitStep_idleDone (hwait.trans hw)
      (hidleU.trans (isIdle_iff.mpr ⟨hfifo, hbusy⟩)), finishIdle_eq, State.ownMask_event _ hpu, hu]
    rfl
  case armIdle =>
    rw [hstep (by simp [hw]), waitStep_armIdle hpu (hwait.trans hw)
      (hidleU.trans (not_isIdle_iff.mpr hbusy)), State.armIdle, armMask_done, hu]
  case wakeIdle =>
    rw [hstep (by simp [hw]), waitStep_idleArmed hpu (hwait.trans hw), hu]
    rfl

end

section
/-! PROOFS. The registers and the wait phases in every step (R29, R31, R32, R36), what no step does
under POLL (R83, R157), and the obligations on both. -/

namespace Sys2Proof.Machine

open Sys2Proof.Config

variable {s s' t : State}

/-! ## The hardwired bits and the responses -/

theorem logOk_step (hok : s.logOk) (h : step s = .next s') : s'.logOk := by
  cases step_latches h with
  | clears _ _ hlog => rw [State.logOk, hlog]; exact hok
  | sets fs _ _ hlog hfault =>
    have hlow : fs.extractLsb' 0 2 = 0#2 := by
      ext k hk
      have hbit : fs.getLsbD k = false := by
        rw [← Bool.not_eq_true]
        intro hset
        obtain h3 | ⟨h2, -⟩ := hfault k hset <;> omega
      simpa using hbit
    rw [State.logOk, hlog, BitVec.extractLsb'_or, hok, hlow, BitVec.or_zero]

/-- LEN_RSP as R31 gives it. -/
def LenRspOk (r : Word) : Prop := r.extractLsb' 30 2 ≠ 3#2 ∧ r.extractLsb' 17 10 = 0#10

/-- REG_RSP as R32 gives it. -/
def RegRspOk (r : Word) : Prop := (r.extractLsb' 29 3).toNat ≤ 4 ∧ r.extractLsb' 5 24 = 0#24

theorem lenAnswer_ok {status : BitVec 2} (slot : BitVec 3) (words : Nat) (h : status ≠ 3#2) :
    LenRspOk (lenAnswer status slot words) := by
  have hstatus : (lenAnswer status slot words).extractLsb' 30 2 = status := by
    simp [lenAnswer, BitVec.extractLsb'_append_eq_of_le (w := 17),
      BitVec.extractLsb'_append_eq_of_le (w := 10), BitVec.extractLsb'_append_eq_of_le (w := 3)]
  have hzero : (lenAnswer status slot words).extractLsb' 17 10 = 0#10 := by
    rw [lenAnswer, BitVec.extractLsb'_append_eq_of_le (w := 17) (by decide)]
    exact BitVec.extractLsb'_append_eq_right (w := 5)
  exact ⟨by rwa [hstatus], hzero⟩

theorem regAnswer_ok {status : BitVec 3} (id : BitVec 5) (h : status.toNat ≤ 4) :
    RegRspOk (regAnswer status id) := by
  have hstatus : (regAnswer status id).extractLsb' 29 3 = status := by
    simp [regAnswer, BitVec.extractLsb'_append_eq_of_le (w := 5),
      BitVec.extractLsb'_append_eq_of_le (w := 24)]
  have hzero : (regAnswer status id).extractLsb' 5 24 = 0#24 := by
    rw [regAnswer, BitVec.extractLsb'_append_eq_of_le (w := 5) (by decide)]
    exact BitVec.extractLsb'_append_eq_right (w := 3)
  exact ⟨by rwa [hstatus], hzero⟩

theorem lenRspOk_effect {i : Instr} (hok : LenRspOk s.lenRsp) (h : LengthEffect s i t) :
    LenRspOk t.lenRsp := by
  cases h with
  | same _ hrsp | reset _ _ hrsp => rw [hrsp]; exact hok
  | answer _ slot words _ hstatus _ hrsp => rw [hrsp]; exact lenAnswer_ok slot words hstatus
  | claim _ _ _ _ _ _ _ _ hrsp => rw [hrsp]; exact lenAnswer_ok _ _ (by decide)

theorem regRspOk_effect {i : Instr} (hok : RegRspOk s.regRsp) (h : RegisterEffect s i t) :
    RegRspOk t.regRsp := by
  cases h with
  | same _ _ _ hrsp | store _ _ _ _ _ _ _ hrsp => rw [hrsp]; exact hok
  | answer _ id _ hstatus _ _ _ hrsp => rw [hrsp]; exact regAnswer_ok id hstatus
  | bind _ _ _ _ _ _ _ _ _ _ hrsp | unbind _ _ _ _ _ _ hrsp =>
    rw [hrsp]; exact regAnswer_ok _ (by decide)

theorem rspOk_iff : s.rspOk ↔ LenRspOk s.lenRsp ∧ RegRspOk s.regRsp := and_assoc.symm

theorem rspOk_step (hok : s.rspOk) (h : step s = .next s') : s'.rspOk := by
  obtain ⟨hlen, hreg⟩ := rspOk_iff.mp hok
  rw [rspOk_iff]
  obtain ⟨i, -, -, sched, sib, program, hx⟩ | ⟨-, -, -, hl, hr, -⟩ := step_hostStep_or_tables h
  · exact ⟨lenRspOk_effect (s := { s with sched := sched, sibPend := sib, program := program })
      hlen hx.lengths, regRspOk_effect
      (s := { s with sched := sched, sibPend := sib, program := program }) hreg hx.registers⟩
  · rw [hl, hr]; exact ⟨hlen, hreg⟩

/-! ## The wait phases -/

/-- Outside a wait for room no word is held. -/
theorem held_none (hok : s.waitOk) (h1 : s.hwait ≠ .roomCheck) (h2 : s.hwait ≠ .roomArmed) :
    s.held = none := by
  by_contra hheld
  exact (hok.2 hheld).elim h1 h2

/-- No word is held, and the wait is not armed. -/
theorem waitOk_of_held_none (hheld : t.held = none) (h1 : t.hwait ≠ .roomArmed)
    (h2 : t.hwait ≠ .idleArmed) : t.waitOk :=
  ⟨fun _ => ⟨h1, h2⟩, fun hne => absurd hheld hne⟩

theorem waitOk_start {i : Instr} (hok : s.waitOk) (hnone : s.hwait = .none)
    (h : WaitStart s i t) : t.waitOk := by
  have hheldS : s.held = none := held_none hok (by simp [hnone]) (by simp [hnone])
  cases h with
  | same _ hw hh | mask _ _ _ hw hh =>
    rw [hnone] at hw
    exact waitOk_of_held_none (hh.trans hheldS) (by simp [hw]) (by simp [hw])
  | done _ _ _ hw hh =>
    have hheld : t.held = none := hh.elim id fun hh => hh.trans hheldS
    exact waitOk_of_held_none hheld (by simp [hw]) (by simp [hw])
  | room _ _ hw => exact ⟨fun _ => by simp [hw], fun _ => .inl hw⟩
  | idle _ _ hw hh => exact waitOk_of_held_none (hh.trans hheldS) (by simp [hw]) (by simp [hw])

theorem waitOk_wait (hok : s.waitOk) (h : WaitEffect s t) : t.waitOk := by
  cases h with
  | room _ _ hh => exact waitOk_of_held_none hh (by simp) (by simp)
  | submit => exact waitOk_of_held_none rfl (by simp) (by simp)
  | idle hw =>
    have hheld := held_none hok (by simp [hw]) (by simp [hw])
    exact waitOk_of_held_none hheld (by simp) (by simp)
  | armRoom hp => exact ⟨fun hpoll => absurd (hp.symm.trans hpoll) (by decide), fun _ => .inr rfl⟩
  | wakeRoom => exact ⟨fun _ => by simp, fun _ => .inl rfl⟩
  | armIdle hp hw =>
    have hheld := held_none hok (by simp [hw]) (by simp [hw])
    exact ⟨fun hpoll => absurd (hp.symm.trans hpoll) (by decide), fun hne => absurd hheld hne⟩
  | wakeIdle _ hw =>
    have hheld := held_none hok (by simp [hw]) (by simp [hw])
    exact waitOk_of_held_none hheld (by simp) (by simp)

theorem waitOk_step (hok : s.waitOk) (h : step s = .next s') : s'.waitOk := by
  obtain ⟨sched, sib, act, -, hturn⟩ := step_next h
  cases hturn with
  | retire op _ _ _ hx => rw [retire_frame hx]; exact hok
  | hostOp i _ rest _ _ hw _ _ _ _ hx =>
    exact waitOk_start (s := { s with sched := sched, sibPend := sib, program := rest }) hok hw
      hx.waits
  | wait _ _ hx => exact waitOk_wait (s := { s with sched := sched, sibPend := sib }) hok hx
  | _ => exact hok

/-! ## Under POLL -/

/-- Under POLL the DEMUX and the signals rest, and the HOST alone writes the mask. -/
theorem step_poll (hp : s.cfg.policy = .poll) (h : step s = .next s') :
    s'.demux = s.demux ∧ s'.sigFifo = s.sigFifo ∧ s'.sigDone = s.sigDone ∧
    (s'.intMask = s.intMask ∨
      ∃ v, s.nextAgent = .host ∧ s.hostNext (.wrIntMask v) ∧ s'.intMask = v) := by
  obtain ⟨sched, sib, act, hact, hturn⟩ := step_next h
  cases hturn with
  | retire op _ _ _ hx => rw [retire_frame hx]; exact ⟨rfl, rfl, rfl, .inl rfl⟩
  | hostOp i a rest op _ hw hprog hr hd _ hx =>
    obtain ⟨-, -, -, -, hdemux, hsigF, hsigD, -⟩ := hx.frame
    refine ⟨hdemux, hsigF, hsigD, ?_⟩
    cases hx.waits with
    | same hmask | room _ hmask | idle _ hmask => exact .inl hmask
    | mask v hi hmask =>
      subst hi
      exact .inr ⟨v, hact, ⟨hw, a, rest, op, hprog, hr, hd⟩, hmask⟩
    | done c _ hmask => exact .inl (hmask.trans (State.ownMask_poll c hp))
  | wait _ _ hx =>
    cases hx with
    | room | submit | idle => exact ⟨rfl, rfl, rfl, .inl (State.ownMask_poll _ hp)⟩
    | armRoom he | wakeRoom he | armIdle he | wakeIdle he =>
      exact absurd (he.symm.trans hp) (by decide)
  | mask _ _ he | release _ _ he | clear _ _ he => exact absurd (he.symm.trans hp) (by decide)
  | _ => exact ⟨rfl, rfl, rfl, .inl rfl⟩

/-- Under POLL a set latch stays set, but for the HOST's own write. -/
theorem step_poll_latch (hp : s.cfg.policy = .poll) (h : step s = .next s') {k : Nat}
    (hset : s.intStat.getLsbD k = true) : s'.intStat.getLsbD k = true ∨
      ∃ v, s.nextAgent = .host ∧ s.hostNext (.wrIntStat v) ∧ v.getLsbD k = true := by
  cases step_latches h with
  | sets fs bn hstat =>
    rw [hstat, BitVec.getLsbD_or, BitVec.getLsbD_or, hset]
    exact .inl rfl
  | clears m hstat _ hwhy =>
    obtain he | ⟨hagent, hnext⟩ := hwhy
    · exact absurd (he.symm.trans hp) (by decide)
    · have hk : k < 6 := by
        by_contra hge
        rw [BitVec.getLsbD_of_ge _ _ (by omega)] at hset
        cases hset
      rw [hstat, BitVec.getLsbD_and, hset, BitVec.getLsbD_not, Bool.true_and]
      cases hbit : m.getLsbD k with
      | false => exact .inl (by simp [hk])
      | true => exact .inr ⟨m, hagent, hnext, hbit⟩

theorem irqAlu_masked (h : s.intMask = 0x3F#6) : s.irqAlu = false := by
  have hmask : ~~~0x3F#6 = 0#6 := by decide
  rw [State.irqAlu, h, hmask, BitVec.and_zero]
  rfl

end Sys2Proof.Machine

open Sys2Proof Sys2Proof.Machine

/-- Settles O60: the configuration, the log, the responses and the wait are each kept. -/
theorem registersAndWaitsStayLegal : Obligations.RegistersAndWaitsStayLegal :=
  fun _ _ hlog hrsp hwait h =>
    ⟨step_cfg h, logOk_step hlog h, rspOk_step hrsp h, waitOk_step hwait h⟩

/-- Settles O41: under POLL the DEMUX rests and the HOST alone writes the mask and clears latches. -/
theorem pollingBypassesInterrupts : Obligations.PollingBypassesInterrupts := by
  intro s s' h hp
  obtain ⟨hdemux, hsigF, hsigD, hmask⟩ := step_poll hp h
  refine ⟨hdemux, hsigF, hsigD, hmask, fun k => step_poll_latch hp h, fun hall hno => ?_⟩
  have hkept : s'.intMask = 0x3F#6 := by
    obtain hsame | ⟨v, hagent, hnext, -⟩ := hmask
    · exact hsame.trans hall
    · exact absurd ⟨v, hagent, hnext⟩ hno
  exact ⟨hkept, irqAlu_masked hkept⟩

end

section
/-! PROOFS. The numbers the reads return (R80 to R85, R103, R113), the pending causes (R145, R149), the
DEMUX's turns and its whole pass (R148 to R151), and the obligations on these. -/

namespace Sys2Proof.Machine

open Sys2Proof.Config

variable {s u : State}

/-! ## The views as numbers -/

theorem topPend_toNat (s : State) :
    s.topPend.toNat = (if s.irqAlu then 1 else 0) + 2 * s.sibPend.toNat := by
  rw [State.topPend, toNat_append_eq_add, toNat_append_eq_add, BitVec.toNat_ofBool]
  cases s.irqAlu <;> simp [Nat.add_comm]

/-- A view's occupancy bit stands above its 22-bit or 31-bit field. -/
theorem occupancy_toNat (occ : Bool) : 2 ^ 31 * (BitVec.ofBool occ).toNat =
    if occ then 2 ^ 31 else 0 := by
  cases occ <;> rfl

theorem lenBitsView_toNat (s : State) (k : SlotId) :
    (s.lenBitsView k).toNat =
      (if (s.slot k).occ then 2 ^ 31 else 0) + (s.slot k).bits.toNat := by
  rw [State.lenBitsView, toNat_append_eq_add, toNat_append_eq_add, ← occupancy_toNat]
  simp only [BitVec.toNat_ofNat]
  omega

theorem lenFullView_toNat (s : State) (k : SlotId) :
    (s.lenFullView k).toNat = (s.slot k).full.toNat := by
  rw [State.lenFullView, toNat_append_eq_add]
  simp

theorem regSizeView_toNat (s : State) (r : RegId) :
    (s.regSizeView r).toNat =
      (if (s.reg r).occ then 2 ^ 31 else 0) + (s.reg r).size.toNat % 2 ^ 31 := by
  rw [State.regSizeView, toNat_append_eq_add, occupancy_toNat, BitVec.extractLsb'_toNat,
    Nat.shiftRight_zero]

/-! ## Pending causes -/

theorem pending_iff (s : State) (c : Cause) :
    s.pending c = true ↔
      s.intStat.getLsbD c.code = true ∧ s.intMask.getLsbD c.code = false := by
  rw [State.pending, Bool.and_eq_true, Bool.not_eq_true']

theorem Cause.exists_code {k : Nat} (h : k < 6) : ∃ c : Cause, c.code = k := by
  match k, h with
  | 0, _ => exact ⟨.fifoWm, rfl⟩
  | 1, _ => exact ⟨.done, rfl⟩
  | 2, _ => exact ⟨.fifoOvf, rfl⟩
  | 3, _ => exact ⟨.div0, rfl⟩
  | 4, _ => exact ⟨.noInv, rfl⟩
  | 5, _ => exact ⟨.mulRed, rfl⟩

theorem Cause.code_lt (c : Cause) : c.code < 6 := by
  cases c <;> decide

/-- Each cause has its own bit of the latches that are set and unmasked (R145). -/
theorem unmasked_getLsbD (s : State) (c : Cause) :
    (s.intStat &&& ~~~s.intMask).getLsbD c.code = s.pending c := by
  rw [BitVec.getLsbD_and, BitVec.getLsbD_not, decide_eq_true (Cause.code_lt c), Bool.true_and,
    State.pending]

/-- irq_alu is 1 exactly when a cause is pending. -/
theorem irqAlu_iff (s : State) : s.irqAlu = true ↔ ∃ c, s.pending c = true := by
  rw [State.irqAlu, decide_eq_true_eq]
  constructor
  · intro hne
    by_contra hnone
    refine hne (BitVec.eq_of_getLsbD_eq fun k hk => ?_)
    obtain ⟨c, rfl⟩ := Cause.exists_code hk
    rw [unmasked_getLsbD, BitVec.getLsbD_zero, ← Bool.not_eq_true]
    exact fun hc => hnone ⟨c, hc⟩
  · rintro ⟨c, hc⟩ hzero
    rw [← unmasked_getLsbD, hzero, BitVec.getLsbD_zero] at hc
    cases hc

theorem Cause.mem_all (c : Cause) : c ∈ Cause.all := by
  cases c <;> decide

/-- The default order lists the causes by rising code (R149). -/
theorem Cause.all_sorted : Cause.all.Pairwise (fun c d => c.code < d.code) := by decide

/-- Where a turn names no cause the pending one of least code is chosen. -/
theorem choose_none_least {c : Cause} (h : s.choose none = some c) :
    s.pending c = true ∧ ∀ d, s.pending d = true → c.code ≤ d.code := by
  obtain ⟨hc, before, after, hall, hfirst⟩ := List.find?_eq_some_iff_append.mp h
  refine ⟨hc, fun d hd => ?_⟩
  have hsorted := Cause.all_sorted
  have hmem := Cause.mem_all d
  rw [hall] at hsorted hmem
  obtain hd' | hd' := List.mem_append.mp hmem
  · have := hfirst d hd'
    rw [hd] at this
    cases this
  · obtain rfl | hd' := List.mem_cons.mp hd'
    · exact le_refl _
    · exact ((List.pairwise_cons.mp (List.pairwise_append.mp hsorted).2.1).1 d hd').le

theorem choose_none_isSome (h : s.irqAlu = true) : ∃ c, s.choose none = some c := by
  obtain ⟨c, hc⟩ := (irqAlu_iff s).mp h
  exact Option.isSome_iff_exists.mp (List.find?_isSome.mpr ⟨c, Cause.mem_all c, hc⟩)

/-! ## The DEMUX's turns -/

/-- Every cause but DONE releases the FIFO's signal, every cause but FIFO_WM the other (R150). -/
theorem demuxRelease_eq (c : Cause) (s : State) :
    s.demuxRelease c = { s with
      sigFifo := s.sigFifo || decide (c ≠ .done)
      sigDone := s.sigDone || decide (c ≠ .fifoWm)
      demux   := .released c } := by
  cases c <;> rfl

theorem step_demux {t : Turn} {rest : List Turn} {pick : Option Cause} (hs : s.sched = t :: rest)
    (ha : t.act = .demux pick) :
    step s = .next (({ s with sched := rest, sibPend := t.sib } : State).demuxStep pick) := by
  rw [step_scheduled hs, ha]; rfl

theorem demuxStep_mask {pick : Option Cause} {c : Cause} (hp : s.cfg.policy = .event)
    (hd : s.demux = .idle) (hc : s.choose pick = some c) :
    s.demuxStep pick = { s with intMask := s.intMask ||| c.bit, demux := .masked c } := by
  rw [demuxStep_event hp, demuxServe_idle hd hc]; rfl

theorem demuxStep_none {pick : Option Cause} (hp : s.cfg.policy = .event) (hd : s.demux = .idle)
    (hc : s.choose pick = none) : s.demuxStep pick = s := by
  rw [demuxStep_event hp, demuxServe_none hd hc]

theorem demuxStep_release {c : Cause} (pick : Option Cause) (hp : s.cfg.policy = .event)
    (hd : s.demux = .masked c) : s.demuxStep pick = { s with
      sigFifo := s.sigFifo || decide (c ≠ .done)
      sigDone := s.sigDone || decide (c ≠ .fifoWm)
      demux   := .released c } := by
  rw [demuxStep_event hp, demuxServe_masked hd, demuxRelease_eq]

theorem demuxStep_clear {c : Cause} (pick : Option Cause) (hp : s.cfg.policy = .event)
    (hd : s.demux = .released c) :
    s.demuxStep pick = { s with intStat := s.intStat &&& ~~~c.bit, demux := .idle } := by
  rw [demuxStep_event hp, demuxServe_released hd]; rfl

theorem run_next {M : Host.Core} {k : Nat} {a b : M.State} (h : M.step a = .next b) :
    M.run (k + 1) a = M.run k b := by
  simp only [Host.Core.run, h]

/-- A run whose first step is a turn of the DEMUX. -/
theorem run_demux {t : Turn} {rest : List Turn} {pick : Option Cause} {k : Nat}
    (hs : s.sched = t :: rest) (ha : t.act = .demux pick)
    (hu : ({ s with sched := rest, sibPend := t.sib } : State).demuxStep pick = u) :
    Host.Core.run Sys2Proof.core (k + 1) s = Host.Core.run Sys2Proof.core k u :=
  run_next (M := Sys2Proof.core) (hu ▸ step_demux hs ha)

end Sys2Proof.Machine

open Sys2Proof Sys2Proof.Machine

/-- Settles O33: a register is returned as it is or widened, a view's number is the sum of its
fields. -/
theorem readsReturnTheirRegister : Obligations.ReadsReturnTheirRegister := by
  intro s k r
  have hwiden (x : BitVec 6) : (x.setWidth 32).toNat = x.toNat :=
    BitVec.toNat_setWidth_of_le (by decide)
  exact ⟨⟨_, rfl, rfl⟩, ⟨_, rfl, hwiden _⟩, ⟨_, rfl, hwiden _⟩, ⟨_, rfl, hwiden _⟩,
    ⟨_, rfl, topPend_toNat s⟩, ⟨_, rfl, rfl⟩, ⟨_, rfl, rfl⟩, ⟨_, rfl, lenBitsView_toNat s k⟩,
    ⟨_, rfl, lenFullView_toNat s k⟩, ⟨_, rfl, rfl⟩, ⟨_, rfl, regSizeView_toNat s r⟩⟩

/-- Settles O36: each cause has its own bit, and the default order searches by rising code. -/
theorem pendingNeedsLatchAndUnmasked : Obligations.PendingNeedsLatchAndUnmasked := by
  intro s
  refine ⟨?_, pending_iff s, fun c => choose_none_least, choose_none_isSome⟩
  simp only [irqAlu_iff, pending_iff]

/-- Settles O37: a turn of the DEMUX is its step, decided by the policy and the DEMUX's state. -/
theorem demuxTurns : Obligations.DemuxTurns := by
  intro s u t rest hs hu
  have hstep (pick : Option Cause) (ha : t.act = .demux pick) :
      step s = .next (u.demuxStep pick) := by
    rw [hu]; exact step_demux hs ha
  refine ⟨fun ha => ?sibling, fun pick ha hp => ?poll, fun pick ha hp =>
    ⟨fun hd c hc => ?mask, fun hd hc => ?none, fun c hd => ?release, fun c hd => ?clear⟩⟩
  case sibling => rw [step_scheduled hs, ha, hu]; rfl
  case poll => rw [hstep pick ha, demuxStep_poll (by rw [hu]; exact hp)]
  all_goals
    have hpu : u.cfg.policy = .event := by rw [hu]; exact hp
    rw [hstep pick ha]
  case mask =>
    rw [demuxStep_mask hpu (by rw [hu]; exact hd) (by rw [hu]; exact hc), hu]
  case none => rw [demuxStep_none hpu (by rw [hu]; exact hd) (by rw [hu]; exact hc)]
  case release => rw [demuxStep_release pick hpu (by rw [hu]; exact hd), hu]
  case clear => rw [demuxStep_clear pick hpu (by rw [hu]; exact hd), hu]

/-- Settles O38: MASK, RELEASE and CLEAR in turn, each on the state the one before left. -/
theorem demuxPassServesOneCause : Obligations.DemuxPassServesOneCause := by
  intro s c b0 b1 b2 p1 p2 hp hd hc hs
  have hchoose : s.choose (some c) = some c := if_pos hc
  calc Host.Core.run Sys2Proof.core 3 s
      = Host.Core.run Sys2Proof.core 2 _ := run_demux hs rfl (demuxStep_mask hp hd hchoose)
    _ = Host.Core.run Sys2Proof.core 1 _ :=
        run_demux (t := ⟨.demux p1, b1⟩) rfl rfl (demuxStep_release p1 hp rfl)
    _ = Host.Core.run Sys2Proof.core 0 _ :=
        run_demux (t := ⟨.demux p2, b2⟩) rfl rfl (demuxStep_clear p2 hp rfl)
    _ = _ := by simp only [Host.Core.run, hd]

end

section
/-! PROOFS. A length request that a slot answers (R97) or that claims one (R98), and the obligations on
both. -/

namespace Sys2Proof.Machine

variable {s : State} {i : Instr} {cls : LenClass} {b : Nat} {k : SlotId}

/-- The width of a request has 20 bits (R70). -/
theorem lenRequestOf_lt (h : lenRequestOf i = some (cls, b)) : b < 2 ^ 20 := by
  unfold lenRequestOf at h
  split at h
  case h_1 w => cases h; exact w.isLt
  case h_2 opc w =>
    split at h
    next => cases h; exact w.isLt
    next => cases h
  case h_3 => cases h

/-- The OK answer as a number: the slot above the length in words (R31). -/
theorem lenOk_toNat (k : SlotId) {full : Nat} (h : full < 2 ^ 22) :
    (lenOk k full).toNat = k.val * 2 ^ 27 + full / 32 := by
  have hwords : (BitVec.ofNat 17 (full / 32)).toNat = full / 32 := Nat.mod_eq_of_lt (by omega)
  rw [lenOk, lenAnswer, toNat_append_eq_add, toNat_append_eq_add, toNat_append_eq_add, hwords]
  simp only [BitVec.toNat_ofNat, BitVec.toNat_ofFin]
  omega

/-- No two occupied slots hold one pair, so the search finds the slot that holds it. -/
theorem matchingSlot_of_ok (hok : s.lenTabOk) (hocc : (s.slot k).occ = true) {bits full : Nat}
    (hbits : (s.slot k).bits.toNat = bits) (hfull : (s.slot k).full.toNat = full) :
    s.matchingSlot bits full = some k := by
  obtain ⟨-, huniq, -⟩ := hok
  cases hm : s.matchingSlot bits full with
  | none => exact absurd ⟨hbits, hfull⟩ (matchingSlot_none.mp hm k hocc)
  | some j =>
    obtain ⟨hj, hjbits, hjfull⟩ := matchingSlot_some hm
    rw [huniq j k hj hocc (BitVec.eq_of_toNat_eq (hjbits.trans hbits.symm))
      (BitVec.eq_of_toNat_eq (hjfull.trans hfull.symm))]

theorem requestSlot_reuse (hm : s.matchingSlot (lenBits cls b) (lenFull cls b) = some k) :
    s.requestSlot cls b = { s with lenRsp := lenOk k (lenFull cls b) } := by
  simp only [State.requestSlot, hm]

theorem requestSlot_claim (hm : s.matchingSlot (lenBits cls b) (lenFull cls b) = none)
    (hf : s.freeSlot = some k) :
    s.requestSlot cls b =
      { s.setSlot k ⟨true, BitVec.ofNat 22 (lenBits cls b), BitVec.ofNat 22 (lenFull cls b)⟩ with
        lenRsp := lenOk k (lenFull cls b) } := by
  simp only [State.requestSlot, hm, hf]

end Sys2Proof.Machine

open Sys2Proof Sys2Proof.Machine

/-- Settles O42: the search finds the one slot that holds the pair. -/
theorem lenRequestReusesTheMatch : Obligations.LenRequestReusesTheMatch := by
  intro s i cls b k hi hok hocc hbits hfull
  have hbound : lenFull cls b < 2 ^ 22 := hfull ▸ (s.slot k).full.isLt
  refine ⟨lenOk k (lenFull cls b), ?_, lenOk_toNat k hbound⟩
  rw [exec_lenRequest s hi, requestSlot_reuse (matchingSlot_of_ok hok hocc hbits hfull)]

/-- Settles O43: no slot matches, and the search for a free one finds the least; the pair fits its
fields. -/
theorem lenRequestClaimsTheLeastFreeSlot : Obligations.LenRequestClaimsTheLeastFreeSlot := by
  intro s i cls b k hi hnone hfree hleast
  obtain ⟨hbits, hfull, -⟩ := lenPair_bounds cls (lenRequestOf_lt hi)
  have hm := matchingSlot_none.mpr hnone
  have hf := freeSlot_some.mpr ⟨hfree, hleast⟩
  refine ⟨lenOk k (lenFull cls b), ⟨true, BitVec.ofNat 22 (lenBits cls b),
    BitVec.ofNat 22 (lenFull cls b)⟩, ?_, lenOk_toNat k hfull, rfl, Nat.mod_eq_of_lt hbits,
    Nat.mod_eq_of_lt hfull⟩
  rw [exec_lenRequest s hi, requestSlot_claim hm hf]
  rfl

end

section
/-! PROOFS. The accesses of the arena (R43 to R45) and the answers of the register allocator (R105 to
R116), each outcome as one law, and the obligations on these. -/

namespace Sys2Proof.Machine

open Sys2Proof.Config

variable {s t u : State} {a : Word} {go : State} {k : SlotId} {r : RegId}

/-! ## Accesses of the arena -/

theorem arenaAccess_misaligned (h : a.toNat % 4 ≠ 0) :
    s.arenaAccess a go = .refused .misalignedAccess :=
  if_pos h

theorem arenaAccess_outside (h4 : a.toNat % 4 = 0) (h : s.cfg.sramSize < a.toNat + 4) :
    s.arenaAccess a go = .refused .outsideArena := by
  rw [State.arenaAccess, if_neg (not_not.mpr h4), if_pos h]

theorem arenaAccess_inside (h4 : a.toNat % 4 = 0) (h : a.toNat + 4 ≤ s.cfg.sramSize) :
    s.arenaAccess a go = if s.isIdle then .next go else .fault .sramAccessWhileBusy := by
  rw [State.arenaAccess, if_neg (not_not.mpr h4), if_neg (Nat.not_lt.mpr h)]

theorem exec_sramRd32 (a : Word) (s : State) : exec (.sramRd32 a) s =
    s.arenaAccess a { s with readData := BitVec.ofNat 32 (s.mem.read a.toNat 4) } := rfl

theorem exec_sramWr32 (a v : Word) (s : State) : exec (.sramWr32 a v) s =
    s.arenaAccess a { s with mem := s.mem.write a.toNat 4 v.toNat } := rfl

/-- Four bytes, least significant first (R42). -/
theorem Memory.read_four (m : Memory) (a : Nat) :
    m.read a 4 = (m.readByte a).toNat + 256 * (m.readByte (a + 1)).toNat +
      65536 * (m.readByte (a + 2)).toNat + 16777216 * (m.readByte (a + 3)).toNat := by
  simp only [Memory.read, Nat.add_assoc, Nat.reduceAdd]
  omega

theorem ofNat_div_pow_eq_extract (v : Word) (k : Nat) :
    BitVec.ofNat 8 (v.toNat / 256 ^ k) = v.extractLsb' (8 * k) 8 := by
  apply BitVec.eq_of_toNat_eq
  rw [toNat_extractLsb'_eq_div_mod, BitVec.toNat_ofNat, Nat.pow_mul]

/-! ## Allocation -/

theorem allocateWith_idle (i : RegId) (a size : Nat) (hi : s.isIdle = true) :
    s.allocateWith (some a) i size = .next (s.bindReg i a size) :=
  if_pos hi

theorem allocateWith_busy (i : RegId) (a size : Nat) (hi : s.isIdle = false) :
    s.allocateWith (some a) i size = .fault .sramAccessWhileBusy :=
  if_neg (by simp [hi])

theorem allocateWith_next {i : RegId} {a size : Nat}
    (h : s.allocateWith (some a) i size = .next t) : t = s.bindReg i a size := by
  cases hi : s.isIdle with
  | true => rw [allocateWith_idle i a size hi] at h; cases h; rfl
  | false => rw [allocateWith_busy i a size hi] at h; cases h

theorem exec_regAlloc_badSlot (h : (s.slot k).occ = false) :
    exec (.regAlloc k) s = .next { s with regRsp := ansBadSlot } :=
  if_pos h

theorem exec_regAlloc_noId (hocc : (s.slot k).occ = true) (hf : s.freeReg = none) :
    exec (.regAlloc k) s = .next { s with regRsp := ansNoId } := by
  simp only [exec, execRegAlloc, hocc, hf, Bool.true_eq_false, if_false]

theorem exec_regAlloc (hocc : (s.slot k).occ = true) (hf : s.freeReg = some r) :
    exec (.regAlloc k) s =
      s.drawn.allocateWith (s.sramAlloc (s.slotBytes k)) r (s.slotBytes k) := by
  simp only [exec, execRegAlloc, hocc, hf, Bool.true_eq_false, if_false]

theorem exec_regBind_badId (h : isReserved r = false ∨ (s.reg r).occ = true) :
    exec (.regBind r k) s = .next { s with regRsp := ansBadId } :=
  if_pos h

theorem exec_regBind_badSlot (hr : isReserved r = true) (hf : (s.reg r).occ = false)
    (hocc : (s.slot k).occ = false) :
    exec (.regBind r k) s = .next { s with regRsp := ansBadSlot } := by
  simp only [exec, execRegBind, hr, hf, hocc, Bool.true_eq_false, Bool.false_eq_true, or_self,
    if_false, if_true]

theorem exec_regBind (hr : isReserved r = true) (hf : (s.reg r).occ = false)
    (hocc : (s.slot k).occ = true) :
    exec (.regBind r k) s =
      s.drawn.allocateWith (s.sramAlloc (s.slotBytes k)) r (s.slotBytes k) := by
  simp only [exec, execRegBind, hr, hf, hocc, Bool.true_eq_false, Bool.false_eq_true, or_self,
    if_false]

/-- A free pool id makes the search for one succeed. -/
theorem freeReg_exists (hr : isReserved r = false) (hf : (s.reg r).occ = false) :
    ∃ i, s.freeReg = some i :=
  Option.isSome_iff_exists.mp
    (List.find?_isSome.mpr ⟨r, List.mem_finRange r, by simp [hr, hf]⟩)

/-- The two answers of an allocation for register `r` and slot `k` on an idle block (R46, R105,
R108). -/
def AllocationAnswer (s : State) (k : SlotId) (r : RegId) (result : Result) : Prop :=
  (s.sramAlloc (s.slotBytes k) = none ∧
    result = .next { s with regRsp := 0x40000000#32, draws := s.draws + 1 }) ∨
  ∃ a, s.sramAlloc (s.slotBytes k) = some a ∧ result = .next { s with
      regTab := s.regTab.set r.val
        ⟨true, BitVec.ofNat 32 a, BitVec.ofNat 32 ((s.slot k).full.toNat / 8)⟩ r.isLt
      live   := insertRegion a ((s.slot k).full.toNat / 8) s.live
      mem    := s.mem.write a ((s.slot k).full.toNat / 8) 0
      regRsp := BitVec.ofNat 32 r.val
      draws  := s.draws + 1 } ∧
    a % 8 = 0 ∧ a + (s.slot k).full.toNat / 8 ≤ s.cfg.sramSize ∧
    ∀ x ∈ s.live, a + (s.slot k).full.toNat / 8 ≤ x.1 ∨ x.1 + x.2 ≤ a

theorem allocate_idle (k : SlotId) (r : RegId) (hi : s.isIdle = true) :
    AllocationAnswer s k r
      (s.drawn.allocateWith (s.sramAlloc (s.slotBytes k)) r (s.slotBytes k)) := by
  unfold AllocationAnswer
  cases ha : s.sramAlloc (s.slotBytes k) with
  | none => exact .inl ⟨rfl, rfl⟩
  | some a =>
    refine .inr ⟨a, rfl, ?_, sramAlloc_some ha⟩
    rw [allocateWith_idle _ _ _ (by exact hi), ← regOk_eq]
    rfl

/-- While the block is not idle a region found is the model fault, and a failure needs no idleness
(R116). -/
theorem allocate_busy (k : SlotId) (r : RegId) (hi : s.isIdle = false) :
    (s.sramAlloc (s.slotBytes k) = none ∧
      s.drawn.allocateWith (s.sramAlloc (s.slotBytes k)) r (s.slotBytes k) =
        .next { s with regRsp := 0x40000000#32, draws := s.draws + 1 }) ∨
    (s.sramAlloc (s.slotBytes k) ≠ none ∧
      s.drawn.allocateWith (s.sramAlloc (s.slotBytes k)) r (s.slotBytes k) =
        .fault .sramAccessWhileBusy) := by
  cases s.sramAlloc (s.slotBytes k) with
  | none => exact .inl ⟨rfl, rfl⟩
  | some a => exact .inr ⟨Option.some_ne_none a, allocateWith_busy r a _ (by exact hi)⟩

/-! ## Allocation and then release -/

theorem legalRegion_iff {p : Params} {live : List (Nat × Nat)} {size a : Nat} :
    legalRegion p live size a = true ↔
      a % 8 = 0 ∧ a + size ≤ p.sramSize ∧ ∀ x ∈ live, a + size ≤ x.1 ∨ x.1 + x.2 ≤ a := by
  simp only [legalRegion, Bool.and_eq_true, decide_eq_true_eq, List.all_eq_true, disjointFrom,
    Bool.or_eq_true, and_assoc]

theorem exec_regFree_next (hocc : (t.reg r).occ = true) (h : exec (.regFree r) t = .next u) :
    u = t.unbindReg r := by
  rw [exec_regFree_occupied hocc] at h
  split at h
  · cases h; rfl
  · cases h

/-- Clearing an entry that was free before it was written restores the table. -/
theorem regTab_set_set {e z : RegEntry} (h : s.reg r = z) :
    (s.regTab.set r.val e r.isLt).set r.val z r.isLt = s.regTab := by
  subst h
  rw [Vector.set_set]
  exact Vector.set_getElem_self r.isLt

end Sys2Proof.Machine

open Sys2Proof Sys2Proof.Machine

/-- Settles O23: the offset decides whether there is an access, and the access reads or sets its four
bytes. -/
theorem hostArenaAccesses : Obligations.HostArenaAccesses := by
  intro s a v
  rw [exec_sramRd32, exec_sramWr32]
  refine ⟨fun h4 hin hi => ⟨?read, ?write⟩,
    fun h4 => ⟨arenaAccess_misaligned h4, arenaAccess_misaligned h4⟩,
    fun h4 hout => ⟨arenaAccess_outside h4 hout, arenaAccess_outside h4 hout⟩⟩
  case read =>
    refine ⟨_, by rw [arenaAccess_inside h4 hin, if_pos hi], ?_⟩
    rw [← Memory.read_four, BitVec.toNat_ofNat]
    exact Nat.mod_eq_of_lt (Memory.read_lt s.mem a.toNat 4)
  case write =>
    refine ⟨_, by rw [arenaAccess_inside h4 hin, if_pos hi], fun hwf k hk => ?_,
      fun b hb => Memory.readByte_write_outside s.mem _ hb⟩
    rw [Memory.readByte_write_inside hwf _ _ _ _ hk, ofNat_div_pow_eq_extract]

/-- Settles O24: a legal access and a zero-fill ask for idleness, an allocation that fails does
not. -/
theorem arenaAccessNeedsIdleness : Obligations.ArenaAccessNeedsIdleness := by
  intro s hbusy
  have hi := not_isIdle_iff.mpr hbusy
  refine ⟨fun a v h4 hin => ⟨?read, ?write⟩, fun k i hslot hr hf => ?alloc,
    fun k i hslot hr hf => ?bind, fun i hocc => ?free⟩
  case read => rw [exec_sramRd32, arenaAccess_inside h4 hin, hi]; rfl
  case write => rw [exec_sramWr32, arenaAccess_inside h4 hin, hi]; rfl
  case alloc =>
    obtain ⟨j, hj⟩ := freeReg_exists hr hf
    rw [exec_regAlloc hslot hj]
    exact allocate_busy k j hi
  case bind =>
    rw [exec_regBind hr hf hslot]
    exact allocate_busy k i hi
  case free => rw [exec_regFree_occupied hocc, hi]; rfl

/-- Settles O48: the slot, then the least free pool id, then the allocation. -/
theorem regAllocAnswers : Obligations.RegAllocAnswers := by
  intro s k
  refine ⟨exec_regAlloc_badSlot, fun hslot hfull => exec_regAlloc_noId hslot (freeReg_none hfull),
    fun hslot i hpool hf hleast hi => ?_⟩
  rw [exec_regAlloc hslot (freeReg_of_least hpool hf hleast)]
  exact allocate_idle k i hi

/-- Settles O49: the id, then the slot, then the allocation. -/
theorem regBindAnswers : Obligations.RegBindAnswers := by
  intro s k i
  refine ⟨fun hbad => exec_regBind_badId (hbad.imp_left fun hpool => ?_),
    fun hres hf hslot => exec_regBind_badSlot (isReserved_iff.mpr hres) hf hslot,
    fun hres hf hslot hi => ?_⟩
  · rw [← Bool.not_eq_true, isReserved_iff]; omega
  · rw [exec_regBind (isReserved_iff.mpr hres) hf hslot]
    exact allocate_idle k i hi

/-- Settles O51: the region was disjoint from every live one, so releasing it takes it alone, and the
entry was free, so clearing it restores it. -/
theorem allocThenFreeRestores : Obligations.AllocThenFreeRestores := by
  rintro s k i ⟨hlegal, -, -, hlen, ⟨-, -, hzero⟩, ⟨-, hregion, -⟩, -⟩ hslot hfree
  refine ⟨exec_regAlloc hslot hfree, fun a t t' u hcontract halloc htab hlive hwf hfreed => ?_⟩
  obtain ⟨-, hiFree, -⟩ := freeReg_some hfree
  obtain ⟨hsize, -, hsizeBus⟩ := slotBytes_bounds hlen hslot
  obtain ⟨-, hinside, hdisj⟩ := legalRegion_iff.mp hcontract
  have hbus := legal_sramSize hlegal
  obtain rfl := allocateWith_next halloc
  have hentry : (s.drawn.bindReg i a (s.slotBytes k)).reg i =
      ⟨true, BitVec.ofNat 32 a, BitVec.ofNat 32 (s.slotBytes k)⟩ :=
    (bindReg_reg _ i a _ i).trans (if_pos rfl)
  have hentry' := (reg_congr htab i).trans hentry
  have haddr : (BitVec.ofNat 32 a).toNat = a := Nat.mod_eq_of_lt (by omega)
  have hsizeN : (BitVec.ofNat 32 (s.slotBytes k)).toNat = s.slotBytes k :=
    Nat.mod_eq_of_lt hsizeBus
  have hapart : ∀ x ∈ s.live, x.1 ≠ a := by
    intro x hx
    have := (hregion x hx).1
    have := hdisj x hx
    omega
  obtain rfl := exec_regFree_next (by rw [hentry']) hfreed
  rw [hentry]
  refine ⟨regOk_eq i, rfl, haddr, ?tab, ?live, fun x hlow hhigh => ?bytes⟩
  case tab =>
    rw [State.unbindReg_regTab, htab]
    exact regTab_set_set (hzero i hiFree)
  case live =>
    rw [State.unbindReg_live, hentry', hlive, haddr]
    exact removeRegion_insertRegion hapart
  case bytes =>
    rw [hsizeN] at hhigh
    obtain ⟨d, rfl⟩ := Nat.exists_eq_add_of_le hlow
    rw [State.unbindReg_mem, hentry', haddr, hsizeN]
    exact Memory.write_zero_byte hwf a _ d (by omega)

end

section
/-! PROOFS. Bus addresses in a legal configuration (R39 to R41), the invariants of the reset state
(R164), and the obligations on both. -/

namespace Sys2Proof.Machine

open Sys2Proof.Config

/-- A window that lies inside the bus holds the address of each of its offsets. -/
theorem windowAddress_toNat {base : Word} {size off : Nat} (hbus : base.toNat + size ≤ 2 ^ 32)
    (h : off < size) : (base + BitVec.ofNat 32 off).toNat = base.toNat + off := by
  rw [BitVec.toNat_add, BitVec.toNat_ofNat, Nat.mod_eq_of_lt (a := off) (by omega),
    Nat.mod_eq_of_lt (by omega)]

theorem routeAddress_register {p : Params} {off : Nat} (write : Bool) (d : Word) (hp : p.legal)
    (h : off < 0x200) : routeAddress p write (p.aluBase + BitVec.ofNat 32 off) d =
      .ok (.bus (BitVec.ofBool write ++ BitVec.ofNat 12 off) d) := by
  obtain ⟨-, -, -, -, -, -, -, hbus, -⟩ := hp
  have haddr := windowAddress_toNat hbus h
  rw [routeAddress, if_pos (by rw [haddr]; omega), haddr, Nat.add_sub_cancel_left]

theorem routeAddress_arena {p : Params} {off : Nat} (write : Bool) (d : Word) (hp : p.legal)
    (h : off < p.sramSize) : routeAddress p write (p.sramBase + BitVec.ofNat 32 off) d =
      .ok (.sram (BitVec.ofBool write ++ BitVec.ofNat 32 off) d) := by
  obtain ⟨-, -, -, -, -, -, -, -, hbus, hapart⟩ := hp
  have haddr := windowAddress_toNat hbus h
  rw [routeAddress, if_neg (by rw [haddr]; omega), if_pos (by rw [haddr]; omega), haddr,
    Nat.add_sub_cancel_left]

theorem routeAccess_word (p : Params) (write : Bool) (addr d : Word) :
    routeAccess p (.mmio write 4 addr d) = routeAddress p write addr d := rfl

theorem resetWith_ok {p : Params} {m : Memory} (hp : p.legal) (hwf : m.wf)
    (hin : ∀ c ∈ m, c.1 < p.sramSize) : (State.resetWith p m).ok := by
  refine ⟨hp, ⟨hwf, hin⟩, ?fifo, ?lens, ?regs, ?live, rfl, ?responses, ?wait⟩
  case fifo => simp [State.fifoOk, State.resetWith]
  case lens => simp [State.lenTabOk]
  case regs => simp [State.regTabOk]
  case live => simp [State.liveOk, State.resetWith]
  case responses => simp [State.rspOk, State.resetWith]
  case wait => simp [State.waitOk, State.resetWith]

end Sys2Proof.Machine

open Sys2Proof Sys2Proof.Machine Sys2Proof.Config

/-- Settles O53: an address in a window is its base plus the offset, the windows do not overlap, and
the width is tested first. -/
theorem busAddressesReachTheirWindow : Obligations.BusAddressesReachTheirWindow := by
  intro p write d off hp
  refine ⟨fun h => ?register, fun h => ?arena, fun n a hn => if_pos hn⟩
  case register => rw [routeAccess_word, routeAddress_register write d hp h]
  case arena => rw [routeAccess_word, routeAddress_arena write d hp h]

/-- Settles O55: the tables are free, the FIFO and the live set empty, and the example configuration is
legal. -/
theorem resetMeetsTheInvariants : Obligations.ResetMeetsTheInvariants :=
  ⟨fun _ _ => resetWith_ok, resetWith_ok (by decide) Memory.wf_nil (by simp)⟩

end
